-- ==== Sys2Proof/Word.lean ====
section
/-! DEFINITION. The word types of KV-CORE (00_scope.md rule R16, 30_encoding.md rules R100 and R106).
Bit 0 is the least significant bit of every word (R18). -/

namespace Sys2Proof

/-- A data byte, the status byte, a byte of a command word (R16). -/
abbrev Byte := BitVec 8

/-- A value: a 32-bit unsigned number (R16, R99). -/
abbrev U32 := BitVec 32

/-- An input token of RXU: bit 8 is E, bits 7 to 0 are D (R106). -/
abbrev Token := BitVec 9

/-- A command word as its bytes: byte k is cmd_word[8k+7 : 8k] (R100). -/
abbrev CmdWord := List Byte

end Sys2Proof
end

