-- ==== Sys2Proof/Config.lean ====
section
/-! DEFINITION. The build parameters (00_scope.md rules R8 to R17, 10_state.md rule R30) and the free values.
A configuration that R38 does not admit (H or GAP_US above 65535) cannot be built: the two proof fields of
`TxConfig` exclude it (93_implementation_defined.md item 20). -/

namespace Sys2Proof

/-- N_VALUES: the number of 32-bit values of a frame (R11). -/
inductive NValues where
  | three
  | four
deriving DecidableEq, Repr

/-- K_STOP: the number of stop bits of a symbol (R10). -/
inductive StopBits where
  | one
  | two
deriving DecidableEq, Repr

/-- COMP_US: the timing compensation in whole microseconds (R12). -/
inductive CompUs where
  | seven
  | ten
deriving DecidableEq, Repr

def NValues.count : NValues → Nat
  | .three => 3
  | .four => 4

def StopBits.count : StopBits → Nat
  | .one => 1
  | .two => 2

def CompUs.us : CompUs → Nat
  | .seven => 7
  | .ten => 10

/-- BAUD, bits per second (R8). -/
def baud : Nat := 9600

/-- TICK_US: one tick of TXU is one microsecond (R15). -/
def tickUs : Nat := 1

/-- BIT_PERIOD_US = round(1,000,000 / BAUD), half up (R9). -/
def bitPeriodUs : Nat := (2 * 1000000 + baud) / (2 * baud)

/-- TXU's build parameters. `holdFits` says that H = BIT_PERIOD_US − COMP_US + LOOP_OVERHEAD_US fits the
16 bits of TX_TIMER, `gapFits` that GAP_US does (R38). -/
structure TxConfig where
  nValues : NValues
  kStop : StopBits
  compUs : CompUs
  loopOverheadUs : Nat
  gapUs : Nat
  holdFits : bitPeriodUs - compUs.us + loopOverheadUs ≤ 65535
  gapFits : gapUs ≤ 65535
deriving DecidableEq, Repr

/-- DELAY_US, the busy-wait delay of one bit (R13). -/
def TxConfig.delayUs (c : TxConfig) : Nat := bitPeriodUs - c.compUs.us

/-- H, the ticks each bit is held (R13, R121). -/
def TxConfig.holdUs (c : TxConfig) : Nat := c.delayUs + c.loopOverheadUs

/-- A calibrated TXU: LOOP_OVERHEAD_US = COMP_US (R13). -/
abbrev TxConfig.Calibrated (c : TxConfig) : Prop := c.loopOverheadUs = c.compUs.us

/-- timing_ok(H) in integers: |H − T| ≤ 0.05·T for T = 1,000,000 / BAUD (R214). No unit checks it. -/
abbrev TxConfig.TimingOk (c : TxConfig) : Prop :=
  950000 ≤ baud * c.holdUs ∧ baud * c.holdUs ≤ 1050000

/-- RXU's build parameter (R30). -/
structure RxConfig where
  nValues : NValues
deriving DecidableEq, Repr

/-- Both units' parameters. The two N_VALUES are separate: a mismatch is a hazard with a defined outcome (R216). -/
structure Config where
  tx : TxConfig
  rx : RxConfig
deriving DecidableEq, Repr

/-- The identity string (R2). -/
def Config.identity : String := "KV-CORE/v7"

/-- REV_A and REV_B (R17): K_STOP goes with N_VALUES; COMP_US and the open parameters stay free. -/
abbrev Config.IsRevA (c : Config) : Prop := c.tx.nValues = .three ∧ c.tx.kStop = .one ∧ c.rx.nValues = .three

abbrev Config.IsRevB (c : Config) : Prop := c.tx.nValues = .four ∧ c.tx.kStop = .two ∧ c.rx.nValues = .four

/-- DESIGN CHOICE (log 2): the build of `State.reset`, the one 95_test_vectors.md takes unless it says otherwise
(N_VALUES = 3, K_STOP = 1, calibrated with COMP_US = 7, GAP_US = 0). Unsafe: claims are made of every configuration. -/
def Config.standard : Config where
  tx :=
    { nValues := .three, kStop := .one, compUs := .seven, loopOverheadUs := 7, gapUs := 0
      holdFits := by decide, gapFits := by decide }
  rx := { nValues := .three }

/-- DESIGN CHOICE (log 7): the free bytes. After a command is accepted, the entries of TX_Q at TX_QLEN and above are
unspecified (R39, 93_implementation_defined.md item 14). The argument is the model's free-value counter. Safe. -/
opaque Config.freeByte : Nat → Byte

/-- DESIGN CHOICE (log 8): what an index outside TX_Q would read. No such entry exists, and no reachable state has
such an index (R32). Safe. -/
opaque Config.absentByte : Nat → Byte

end Sys2Proof
end

