-- ==== Sys2Proof/Syntax.lean ====
section
/-! DEFINITION. The operations that take the place of instructions (00_scope.md rule R24), one constructor for
each row of spec/opcode_table.json, and the words the two ports carry (10_state.md rules R52 and R55). -/

namespace Sys2Proof

/-- The three commands of TXU, the reserved commands, and the two tokens of RXU. -/
inductive Instr where
  /-- TX_BYTE (R102, R130). -/
  | txByte (d : Byte)
  /-- TX_U32 (R103, R131). -/
  | txU32 (v : U32)
  /-- TX_CYCLE (R104, R132): the status, then the values in index order. -/
  | txCycle (status : Byte) (values : List U32)
  /-- RESERVED_CMD (R105, R187): the opcode is none of 0x01, 0x02, 0x03. -/
  | reservedCmd (op : Byte)
  /-- RX_BYTE (R106, R151, R166, R177). -/
  | rxByte (b : Byte)
  /-- RX_EOS (R106, R176, R177). -/
  | rxEos
deriving DecidableEq, Repr

/-- The two agents of the block (R23). -/
inductive Agent where
  | txu
  | rxu
deriving DecidableEq, Repr

/-- A word on one of the two input ports: a command of TXU (R52) or a token of RXU (R55). -/
inductive PortWord where
  | cmd (w : CmdWord)
  | tok (t : Token)
deriving DecidableEq, Repr

/-- The unit whose port carries an operation (R24). -/
def Instr.agent : Instr → Agent
  | .txByte _ => .txu
  | .txU32 _ => .txu
  | .txCycle _ _ => .txu
  | .reservedCmd _ => .txu
  | .rxByte _ => .rxu
  | .rxEos => .rxu

end Sys2Proof
end

