-- ==== Sys2Proof/Machine/State.lean ====
section
/-! DEFINITION. The state of the two units (10_state.md rules R32 and R42), the ports' inputs and the record list,
the reasons a step can stop, and the reset values (rule R65). Plain data throughout. -/

namespace Sys2Proof.Machine

/-- The block has neither faults nor traps (R25, R138, R185, R188), so there is no fault: log 20. Safe. -/
inductive Fault where
deriving DecidableEq, Repr

/-- Why a step is refused. -/
inductive Refusal where
  /-- An instruction without a meaning yet. No arm of `exec` raises it. Safe. -/
  | notModelled (mnemonic : String)
  /-- A command that does not fit the port: a word of another width than CW on the port (raised by `fetchTx`), or a
  TX_CYCLE with another number of values than N_VALUES (raised by `execTxCycle`). "It does not fit the port and is not
  admitted" (R109, 93_implementation_defined.md item 21; log 14). Safe. -/
  | doesNotFitPort
deriving DecidableEq, Repr

/-- The named events of 60_exceptions.md rule R187. -/
inductive Event where
  | reservedCommand (op : Byte)
deriving DecidableEq, Repr

/-- TX_PHASE (R34). -/
inductive TxPhase where
  | idle
  | bit
  | gap
deriving DecidableEq, Repr

/-- RX_STATE (R42). -/
inductive RxState where
  | scan
  | capture
  | stopped
deriving DecidableEq, Repr

/-- EMPTY, the sentinel of a history slot: it equals no byte (R43). -/
def emptySlot : BitVec 9 := 0x100#9

/-- A record (R56, R172). -/
structure Record where
  status : Byte
  values : List U32
deriving DecidableEq, Repr

/-- TXU's state elements (R32). -/
structure Txu where
  /-- TX_PHASE (R34). -/
  phase : TxPhase
  /-- TX_LINE, true for logic high (R35). -/
  line : Bool
  /-- TX_SHREG (R36). -/
  shreg : BitVec 16
  /-- TX_BITCNT (R37). -/
  bitcnt : BitVec 4
  /-- TX_TIMER (R38). -/
  timer : BitVec 16
  /-- TX_Q (R39). -/
  q : Vector Byte 20
  /-- TX_QLEN (R39). -/
  qlen : BitVec 5
  /-- TX_QI (R39). -/
  qi : BitVec 5
  /-- TX_ERR (R40). -/
  err : Bool
deriving DecidableEq, Repr

/-- RXU's state elements (R42) and its record port. -/
structure Rxu where
  /-- RX_STATE (R42). -/
  state : RxState
  /-- RX_PREV2 (R43). -/
  prev2 : BitVec 9
  /-- RX_PREV1 (R43). -/
  prev1 : BitVec 9
  /-- RX_CAPIDX (R44). -/
  capidx : BitVec 5
  /-- RX_CAPBUF (R45). -/
  capbuf : Vector Byte 17
  /-- The record port after the unit's last step: `some` for rec_valid = 1 with its fields, `none` for rec_valid = 0,
  when the fields are unspecified (R56; log 10, log 11). -/
  recOut : Option Record
deriving DecidableEq, Repr

/-- What TXU's input pins carry at one coming boundary (R50, R53, R54, R84; log 4, log 5). -/
inductive TxInput where
  /-- rst_tx = 1 at this boundary; the word with which cmd_valid = 1 as well, if it is, which is not accepted (R54). -/
  | reset (presented : Option CmdWord)
  /-- rst_tx = 0 and cmd_valid = 0 at this boundary. -/
  | idle
  /-- cmd_valid = 1 with this word at this boundary only, accepted or not. -/
  | offer (w : CmdWord)
  /-- cmd_valid = 1 with this word, held until it is accepted: the caller is blocked (R53). -/
  | hold (w : CmdWord)
deriving DecidableEq, Repr

/-- What RXU's input pins carry on one coming occasion (R50, R55, R57, R84; log 4). -/
inductive RxInput where
  /-- rst_rx = 1: no token is taken. -/
  | reset
  /-- tok_valid = 1 with this token. -/
  | token (t : Token)
deriving DecidableEq, Repr

/-- The whole state. -/
structure State where
  /-- The build (R30): constant, no step writes it (log 1). -/
  cfg : Config
  tx : Txu
  rx : Rxu
  /-- The records emitted so far, oldest first (R56, R179; log 12). The model's own. -/
  records : List Record
  /-- TXU's coming inputs, the next first; none left means idle pins (log 4). The model's own. -/
  txIn : List TxInput
  /-- RXU's coming inputs, the next first; none left means no token (log 4). The model's own. -/
  rxIn : List RxInput
  /-- Which unit moves next; none left means TXU, whose tick never pauses (R217; log 4). The model's own. -/
  sched : List Agent
  /-- The free-value counter (log 7). The model's own. -/
  free : Nat
deriving DecidableEq, Repr

/-- TXU after its reset (R65). -/
def Txu.reset : Txu where
  phase := .idle
  line := true
  shreg := 0#16
  bitcnt := 0#4
  timer := 0#16
  q := Vector.replicate 20 0#8
  qlen := 0#5
  qi := 0#5
  err := false

/-- RXU after its reset (R65). No record is pending. -/
def Rxu.reset : Rxu where
  state := .scan
  prev2 := emptySlot
  prev1 := emptySlot
  capidx := 0#5
  capbuf := Vector.replicate 17 0#8
  recOut := none

/-- Both units after reset, for a build. The model's own fields are empty (DESIGN CHOICE, logs 4, 7 and 12). -/
def State.resetOf (c : Config) : State where
  cfg := c
  tx := Txu.reset
  rx := Rxu.reset
  records := []
  txIn := []
  rxIn := []
  sched := []
  free := 0

/-- The machine right after reset (R65, R208), for the build of log 2. -/
def State.reset : State := State.resetOf Config.standard

end Sys2Proof.Machine
end

