-- ==== Sys2Proof/Machine/Flags.lean ====
section
/-! DEFINITION. The flags, the output ports and the read-only status registers (10_state.md rules R40, R41, R46, R50 to
R64). None is state of its own; a read has no side effect (R58, R77). -/

namespace Sys2Proof.Machine

/-- BUSY = (TX_PHASE ≠ IDLE) (R41). -/
def Txu.busy (t : Txu) : Bool := t.phase != .idle

/-- READY = not BUSY (R41). -/
def Txu.ready (t : Txu) : Bool := !t.busy

/-- cmd_ready: READY, but 0 while rst_tx = 1 (R50, R54). -/
def Txu.cmdReady (rstTx : Bool) (t : Txu) : Bool := !rstTx && t.ready

/-- tx_line = TX_LINE; 1 while rst_tx = 1, as the reset value (R50, R51, R54). -/
def Txu.lineOut (rstTx : Bool) (t : Txu) : Bool := rstTx || t.line

/-- P1V: RX_PREV1 ≠ EMPTY (R61). -/
def Rxu.p1v (r : Rxu) : Bool := r.prev1 != emptySlot

/-- P2V: RX_PREV2 ≠ EMPTY (R61). -/
def Rxu.p2v (r : Rxu) : Bool := r.prev2 != emptySlot

/-- rx_done = (RX_STATE = STOPPED) (R50, R57). -/
def Rxu.rxDone (r : Rxu) : Bool := r.state == .stopped

/-- rec_valid (R56). -/
def Rxu.recValid (r : Rxu) : Bool := r.recOut.isSome

/-- rec_values: value i at bits [32i+31 : 32i] (R50, R172); the bits above 32·N_VALUES, which the port of a build with
three values does not have, are 0. -/
def Record.valuesPort (rec : Record) : BitVec 128 :=
  rec.values.foldr (fun v acc => (acc <<< 32) ||| v.setWidth 128) 0#128

/-- The code of TX_PHASE (R34). -/
def TxPhase.code : TxPhase → BitVec 2
  | .idle => 0#2
  | .bit => 1#2
  | .gap => 2#2

/-- The code of RX_STATE (R42). -/
def RxState.code : RxState → BitVec 2
  | .scan => 0#2
  | .capture => 1#2
  | .stopped => 2#2

/-- TXSTAT (R59). -/
def txstat (t : Txu) : BitVec 8 :=
  0#4 ++ BitVec.ofBool (t.phase == .gap) ++ BitVec.ofBool t.err ++ BitVec.ofBool t.line ++ BitVec.ofBool t.busy

/-- TXCFG (R60). -/
def txcfg (c : TxConfig) : BitVec 8 :=
  0#5 ++ BitVec.ofBool (c.compUs == .ten) ++ BitVec.ofBool (c.nValues == .four) ++ BitVec.ofBool (c.kStop == .two)

/-- RXSTAT (R61). -/
def rxstat (r : Rxu) : BitVec 8 :=
  0#4 ++ BitVec.ofBool r.p2v ++ BitVec.ofBool r.p1v ++ r.state.code

/-- RXCAP (R62). -/
def rxcap (r : Rxu) : BitVec 8 := 0#3 ++ r.capidx

/-- RXHIST (R63): a slot that holds EMPTY reads 0x00, its low eight bits. -/
def rxhist (r : Rxu) : BitVec 16 := r.prev2.setWidth 8 ++ r.prev1.setWidth 8

/-- RXCFG (R64). -/
def rxcfg (c : RxConfig) : BitVec 8 := 0#7 ++ BitVec.ofBool (c.nValues == .four)

/-- TXU's register map (R58): 0 TXSTAT, 1 TXCFG, and no other register. -/
def readTxReg (s : State) : Nat → Option (BitVec 8)
  | 0 => some (txstat s.tx)
  | 1 => some (txcfg s.cfg.tx)
  | _ + 2 => none

/-- RXU's register map (R58): 0 RXSTAT, 1 RXCAP, 2 RXHIST, 3 RXCFG, and no other register. The registers of 8 bits are
zero-extended to RXHIST's 16. -/
def readRxReg (s : State) : Nat → Option (BitVec 16)
  | 0 => some ((rxstat s.rx).setWidth 16)
  | 1 => some ((rxcap s.rx).setWidth 16)
  | 2 => some (rxhist s.rx)
  | 3 => some ((rxcfg s.cfg.rx).setWidth 16)
  | _ + 4 => none

end Sys2Proof.Machine
end

