-- ==== Sys2Proof/WellFormed.lean ====
section
/-! DEFINITION. Which terms of `Instr` are operations of a build: a TX_CYCLE has exactly N_VALUES values
(30_encoding.md rule R109), and a reserved command has an opcode of no command (rules R101 and R105). -/

namespace Sys2Proof

/-- The check, for a TXU built with `n` values. Every operand of the other operations is admitted (R130, R131, R151,
R166). -/
def Instr.wellFormed (n : NValues) : Instr → Bool
  | .txByte _ => true
  | .txU32 _ => true
  | .txCycle _ values => values.length == n.count
  | .reservedCmd op => op != 0x01#8 && op != 0x02#8 && op != 0x03#8
  | .rxByte _ => true
  | .rxEos => true

end Sys2Proof
end

