-- ==== Sys2Proof/Decode.lean ====
section
/-! DEFINITION. Byte order (20_memory.md rule R71, 42_payload_extract.md rule R167), the encodings of the commands
and the tokens (30_encoding.md rules R90 to R109), the decoder, the encoder, and the reading of a word of
spec/opcode_table.json. -/

namespace Sys2Proof

/-! ### Byte order -/

/-- LE4(v): the bytes of a value, least significant first (R19, R71). -/
def le4 (v : U32) : List Byte :=
  [v.extractLsb' 0 8, v.extractLsb' 8 8, v.extractLsb' 16 8, v.extractLsb' 24 8]

/-- u32le(b0, b1, b2, b3), b0 being the byte received first (R167). -/
def u32le (b0 b1 b2 b3 : Byte) : U32 :=
  b0.setWidth 32 ||| (b1.setWidth 32 <<< 8) ||| (b2.setWidth 32 <<< 16) ||| (b3.setWidth 32 <<< 24)

/-! ### The frame (R95 to R97) -/

/-- The preamble's named constants (R97). -/
def pre0 : Byte := 0xFF#8
def pre1 : Byte := 0xFF#8
def pre2 : Byte := 0xFE#8

/-- F[3 .. LEN_F−1]: the payload of a frame (R96). -/
def payloadBytes (status : Byte) (values : List U32) : List Byte :=
  status :: values.flatMap le4

/-- F: the bytes of a frame in wire order (R96, R132). -/
def frameBytes (status : Byte) (values : List U32) : List Byte :=
  [pre0, pre1, pre2] ++ payloadBytes status values

/-- P = 1 + 4·N_VALUES, the bytes of a payload (R16, R165). -/
def NValues.payloadLen (n : NValues) : Nat := 1 + 4 * n.count

/-- LEN_F = 4 + 4·N_VALUES, the bytes of a frame (R16, R96). -/
def NValues.frameLen (n : NValues) : Nat := 4 + 4 * n.count

/-! ### Command words and tokens -/

/-- CW / 8: the bytes of a command word, CW = 16 + 32·N_VALUES (R100). -/
def NValues.cmdBytes (n : NValues) : Nat := 2 + 4 * n.count

/-- The opcodes of R101. -/
def opTxByte : Byte := 0x01#8
def opTxU32 : Byte := 0x02#8
def opTxCycle : Byte := 0x03#8

/-- Byte k of a command word, cmd_word[8k+7 : 8k] (R100). The decoder reads it only inside the word: it checks the
word's width first, so the default is never seen. -/
def byteAt (w : CmdWord) (k : Nat) : Byte := w.getD k 0#8

/-- cmd_word[8k+31 : 8k], the four bytes from byte k on in little-endian order (R100). -/
def u32At (w : CmdWord) (k : Nat) : U32 :=
  u32le (byteAt w k) (byteAt w (k + 1)) (byteAt w (k + 2)) (byteAt w (k + 3))

/-- decode_cmd (R108): the opcode is compared as a whole byte (R101); DATA and STATUS are byte 1, WORD is bytes 1 to
4, V[i] is bytes 4i+2 to 4i+5 (R102 to R104). Bits an opcode does not use are ignored (R100). -/
def decodeOp (n : NValues) (w : CmdWord) : Instr :=
  if byteAt w 0 = opTxByte then .txByte (byteAt w 1)
  else if byteAt w 0 = opTxU32 then .txU32 (u32At w 1)
  else if byteAt w 0 = opTxCycle then
    .txCycle (byteAt w 1) ((List.range n.count).map fun i => u32At w (4 * i + 2))
  else .reservedCmd (byteAt w 0)

/-- Why the decoder rejects a word. -/
inductive DecodeError where
  /-- The command word does not have CW bits: it does not fit the port (R109, 93_implementation_defined.md item 21). -/
  | cmdWidth
deriving DecidableEq, Repr

/-- The command decoder: total on every word of CW bits (R108), rejecting any other width by name (R109). -/
def decodeCmd (n : NValues) (w : CmdWord) : Except DecodeError Instr :=
  if w.length = n.cmdBytes then .ok (decodeOp n w) else .error .cmdWidth

/-- decode_tok (R108): total, with no reserved token (R107). -/
def decodeTok (t : Token) : Instr :=
  if t.getLsbD 8 then .rxEos else .rxByte (t.setWidth 8)

/-- The decoder of both ports. -/
def decode (n : NValues) : PortWord → Except DecodeError Instr
  | .cmd w => decodeCmd n w
  | .tok t => .ok (decodeTok t)

/-! ### The encoder, from the same tables -/

/-- The word of an operation (R102 to R107). Ignored bits are driven to 0. -/
def encode (n : NValues) : Instr → PortWord
  | .txByte d => .cmd (opTxByte :: d :: List.replicate (n.cmdBytes - 2) 0#8)
  | .txU32 v => .cmd (opTxU32 :: (le4 v ++ List.replicate (n.cmdBytes - 5) 0#8))
  | .txCycle status values => .cmd (opTxCycle :: payloadBytes status values)
  | .reservedCmd op => .cmd (op :: List.replicate (n.cmdBytes - 1) 0#8)
  | .rxByte b => .tok (b.setWidth 9)
  | .rxEos => .tok 0x100#9

/-! ### A word as spec/opcode_table.json numbers it -/

/-- The low `count` bytes of a number, least significant first. -/
def bytesOfNat : Nat → Nat → List Byte
  | 0, _ => []
  | count + 1, w => BitVec.ofNat 8 w :: bytesOfNat count (w / 256)

/-- DESIGN CHOICE (log 15): the port of a word of the opcode table. The two ports have separate encodings (R90), and
the table's rows do not say their port in the word. A row of at most 8 bits is a command's opcode; a row of 9 to 16 bits
is a command when its low byte is the opcode of one or when it has a bit above bit 8, and a 9-bit token otherwise; a
longer row is a command. -/
def tablePort (nbits w : Nat) : Agent :=
  if nbits ≤ 8 then .txu
  else if 16 < nbits then .txu
  else if w % 256 = 1 ∨ w % 256 = 2 ∨ w % 256 = 3 then .txu
  else if w < 512 then .rxu
  else .txu

/-- The word on its port, for a TXU built with `n` values. A row of fewer bits than CW has its other bits 0 (R100); one
of more bits makes a word of more bytes, which does not fit the port (R109). -/
def tableWord (n : NValues) (nbits w : Nat) : PortWord :=
  match tablePort nbits w with
  | .txu => .cmd (bytesOfNat (max n.cmdBytes ((nbits + 7) / 8)) w)
  | .rxu => .tok (BitVec.ofNat 9 w)

/-- What the decoder reads from a word of the opcode table, for the build of `State.reset` (log 2). -/
def decodeTableWord (nbits w : Nat) : Option Instr :=
  match decode Config.standard.tx.nValues (tableWord Config.standard.tx.nValues nbits w) with
  | .ok i => some i
  | .error _ => none

end Sys2Proof
end

