-- ==== Sys2Proof/Machine/Operands.lean ====
section
/-! DEFINITION. The operand forms: what bytes each command puts in TX_Q, the symbol word of a byte, the history slot of
a byte, and the fields a record takes from RX_CAPBUF (30_encoding.md rules R92 and R112, 40_transmitter.md rules R130
to R132, 42_payload_extract.md rules R167 to R171). No operand is sign-extended, scaled or shifted (R112). -/

namespace Sys2Proof.Machine

/-- TX_BYTE's queue: [d] (R130). -/
def byteQueue (d : Byte) : List Byte := [d]

/-- TX_U32's queue: LE4(v) (R131). -/
def wordQueue (v : U32) : List Byte := le4 v

/-- TX_CYCLE's queue: the frame (R96, R132). -/
def cycleQueue (status : Byte) (values : List U32) : List Byte := frameBytes status values

/-- SYM(d) = (ones(K_STOP) << 9) | (d << 1), 16 bits (R92). -/
def symbol (k : StopBits) (d : Byte) : BitVec 16 :=
  (BitVec.ofNat 16 (2 ^ k.count - 1) <<< 9) ||| (d.setWidth 16 <<< 1)

/-- 9 + K_STOP, the bits of a symbol (R93). -/
def symbolLen (k : StopBits) : Nat := 9 + k.count

/-- zext_9(b): a seen byte in a history slot (R43). -/
def slotOf (b : Byte) : BitVec 9 := b.setWidth 9

/-- RX_CAPBUF[k], for an index inside the buffer (R45). -/
def capByte (buf : Vector Byte 17) (k : Fin 17) : Byte := buf[k]

/-- rec.values[i] = u32le(RX_CAPBUF[1+4i], .., RX_CAPBUF[4+4i]) (R171), for i = 0 to 3. -/
def capValue (buf : Vector Byte 17) (i : Fin 4) : U32 :=
  u32le (capByte buf ⟨1 + 4 * i, by omega⟩) (capByte buf ⟨2 + 4 * i, by omega⟩)
    (capByte buf ⟨3 + 4 * i, by omega⟩) (capByte buf ⟨4 + 4 * i, by omega⟩)

/-- The record of a full buffer: the status byte and N_VALUES values in index order (R168, R170 to R172). -/
def capRecord (n : NValues) (buf : Vector Byte 17) : Record where
  status := capByte buf 0
  values :=
    match n with
    | .three => [capValue buf 0, capValue buf 1, capValue buf 2]
    | .four => [capValue buf 0, capValue buf 1, capValue buf 2, capValue buf 3]

end Sys2Proof.Machine
end

