-- ==== Sys2Proof/Machine/Ops.lean ====
section
/-! DEFINITION. The named operations both units are made of: the bit engine (40_transmitter.md rules R121 to R129), the
scanner (41_frame_sync.md rules R151 to R154), the capture (42_payload_extract.md rules R166 to R168), end of stream
(rule R176), the one event (60_exceptions.md rules R186 and R187) and the two resets (70_reset_and_hazards.md rule
R205). Statements run in order and a later one reads what an earlier one wrote (00_scope.md rule R19). The block has no
exception entry, so `raise` is the whole of one, and no return from one (R191, R192). -/

namespace Sys2Proof.Machine

/-! ### The bit engine -/

/-- H as TX_TIMER holds it (R38, R121). -/
def holdTicks (c : TxConfig) : BitVec 16 := BitVec.ofNat 16 c.holdUs

/-- GAP_US as TX_TIMER holds it (R38, R127). -/
def gapTicks (c : TxConfig) : BitVec 16 := BitVec.ofNat 16 c.gapUs

/-- TX_Q[i]. An index outside the file reads a free byte (log 8). -/
def Txu.queueByte (t : Txu) (i : BitVec 5) : Byte :=
  if h : i.toNat < 20 then t.q[i.toNat] else Config.absentByte i.toNat

/-- load_symbol(d) (R125). -/
def loadSymbol (c : TxConfig) (d : Byte) (t : Txu) : Txu :=
  { t with
    shreg := symbol c.kStop d
    bitcnt := BitVec.ofNat 4 (symbolLen c.kStop)
    line := false
    timer := holdTicks c
    phase := .bit }

/-- Command complete: TX_PHASE becomes IDLE (R126, R128). -/
def Txu.complete (t : Txu) : Txu := { t with phase := .idle, timer := 0#16 }

/-- The start of a gap (R126, R127). -/
def enterGap (c : TxConfig) (t : Txu) : Txu := { t with phase := .gap, timer := gapTicks c }

/-- end_of_symbol() (R126). -/
def endOfSymbol (c : TxConfig) (t : Txu) : Txu :=
  let t := { t with qi := t.qi + 1#5, line := true }
  if t.qi = t.qlen then t.complete
  else if 0 < c.gapUs then enterGap c t
  else loadSymbol c (t.queueByte t.qi) t

/-- The bit on the line has been held H ticks: the next bit, or the end of the symbol (R123). -/
def nextBit (c : TxConfig) (t : Txu) : Txu :=
  let t := { t with shreg := t.shreg >>> 1, bitcnt := t.bitcnt - 1#4 }
  if t.bitcnt ≠ 0#4 then { t with line := t.shreg.getLsbD 0, timer := holdTicks c }
  else endOfSymbol c t

/-- tx_tick() (R123). In IDLE nothing counts (R198). -/
def txTick (c : TxConfig) (t : Txu) : Txu :=
  match t.phase with
  | .idle => t
  | .gap =>
    let t := { t with timer := t.timer - 1#16 }
    if t.timer ≠ 0#16 then t else loadSymbol c (t.queueByte t.qi) t
  | .bit =>
    let t := { t with timer := t.timer - 1#16 }
    if t.timer ≠ 0#16 then t else nextBit c t

/-- The tick action of a boundary (R122, R212). -/
def State.tick (s : State) : State := { s with tx := txTick s.cfg.tx s.tx }

/-- TX_Q after a command of these bytes: the bytes in wire order, and free bytes at TX_QLEN and above (R39; log 7). -/
def fillQueue (bytes : List Byte) (free : Nat) : Vector Byte 20 :=
  Vector.ofFn fun k => bytes.getD k (Config.freeByte (free + k))

/-- start(Q) (R129), for the bytes of a command, which are never none. -/
def start (bytes : List Byte) (s : State) : State :=
  match bytes with
  | [] => s
  | b :: _ =>
    { s with
      tx := loadSymbol s.cfg.tx b
        { s.tx with q := fillQueue bytes s.free, qlen := BitVec.ofNat 5 bytes.length, qi := 0#5 }
      free := s.free + 20 }

/-- The acceptance test of the handshake (R53): with READY = 0 the command is not taken, and nothing changes (R188;
log 13). Who presents it goes on holding it (`fetchTx`). -/
def acceptIfReady (accept : State → State) (s : State) : Host.Outcome State Fault Refusal :=
  if s.tx.ready then .next (accept s) else .next s

/-! ### Events -/

/-- raise <Event>(info): it sets the event's sticky flag and does nothing else (R186, R187). -/
def raise (e : Event) (s : State) : State :=
  match e with
  | .reservedCommand _ => { s with tx := { s.tx with err := true } }

/-! ### The receiver -/

/-- rec_valid = 0: what every RXU step starts from (R56, R150). -/
def State.dropRecord (s : State) : State := { s with rx := { s.rx with recOut := none } }

/-- The match condition of the preamble, on all nine bits of each slot (R152). -/
def preambleMatches (r : Rxu) (b : Byte) : Bool :=
  r.prev2 == slotOf pre0 && r.prev1 == slotOf pre1 && b == pre2

/-- Entry to capture (R154). The history keeps its bytes. -/
def Rxu.enterCapture (r : Rxu) : Rxu := { r with state := .capture, capidx := 0#5 }

/-- The history shift (R153). -/
def Rxu.shiftHistory (b : Byte) (r : Rxu) : Rxu := { r with prev2 := r.prev1, prev1 := slotOf b }

/-- scan_byte(b) (R151). -/
def scanByte (b : Byte) (s : State) : State :=
  if preambleMatches s.rx b then { s with rx := s.rx.enterCapture }
  else { s with rx := s.rx.shiftHistory b }

/-- Emit(rec): the record on the port for this step, and on the output list (R20, R56). -/
def emit (rec : Record) (s : State) : State :=
  { s with rx := { s.rx with recOut := some rec }, records := s.records ++ [rec] }

/-- Back to scanning with the history cleared (R168). -/
def Rxu.resumeScan (r : Rxu) : Rxu :=
  { r with state := .scan, prev2 := emptySlot, prev1 := emptySlot, capidx := 0#5 }

/-- complete() (R168). -/
def complete (s : State) : State :=
  let s := emit (capRecord s.cfg.rx.nValues s.rx.capbuf) s
  { s with rx := s.rx.resumeScan }

/-- RX_CAPBUF[RX_CAPIDX] <- b. An index outside the buffer, which no reachable state has, writes nothing (log 8). -/
def Rxu.store (b : Byte) (r : Rxu) : Rxu :=
  { r with capbuf := r.capbuf.setIfInBounds r.capidx.toNat b }

/-- 4·N_VALUES, the index of the last payload byte (R166). -/
def lastCapIdx (n : NValues) : BitVec 5 := BitVec.ofNat 5 (4 * n.count)

/-- capture_byte(b) (R166). -/
def captureByte (b : Byte) (s : State) : State :=
  let s := { s with rx := s.rx.store b }
  if s.rx.capidx = lastCapIdx s.cfg.rx.nValues then complete s
  else { s with rx := { s.rx with capidx := s.rx.capidx + 1#5 } }

/-- end_of_stream() (R176). -/
def endOfStream (s : State) : State :=
  { s with rx := { s.rx with state := .stopped, capidx := 0#5 } }

/-! ### Reset -/

/-- rst_tx: TXU takes its reset values, RXU is not changed (R54, R205, R206, R209). -/
def State.resetTx (s : State) : State := { s with tx := Txu.reset }

/-- rst_rx: RXU takes its reset values, TXU is not changed (R57, R205, R207, R209). Records already emitted stay
emitted (log 12). -/
def State.resetRx (s : State) : State := { s with rx := Rxu.reset }

end Sys2Proof.Machine
end

