-- ==== Sys2Proof/Machine/Rx.lean ====
section
/-! DEFINITION. The tokens of RXU: rx_step (41_frame_sync.md rule R150). A token is always taken (10_state.md rule
R55). -/

namespace Sys2Proof.Machine

/-- RX_BYTE: scan, capture or ignore by RX_STATE (R151, R166, R177). -/
def execRxByte (b : Byte) (s : State) : Host.Outcome State Fault Refusal :=
  match s.rx.state with
  | .scan => .next (scanByte b s.dropRecord)
  | .capture => .next (captureByte b s.dropRecord)
  | .stopped => .next s.dropRecord

/-- RX_EOS: stop, or ignore once stopped (R176, R177). -/
def execRxEos (s : State) : Host.Outcome State Fault Refusal :=
  match s.rx.state with
  | .scan => .next (endOfStream s.dropRecord)
  | .capture => .next (endOfStream s.dropRecord)
  | .stopped => .next s.dropRecord

end Sys2Proof.Machine
end

