-- ==== Sys2Proof/Machine/Tx.lean ====
section
/-! DEFINITION. The commands of TXU (40_transmitter.md rules R129 to R132, 60_exceptions.md rule R187): what each does
when it is presented at a boundary, after that boundary's tick (R212 step 3). -/

namespace Sys2Proof.Machine

/-- TX_BYTE: start([d]) (R130). -/
def execTxByte (d : Byte) (s : State) : Host.Outcome State Fault Refusal :=
  acceptIfReady (start (byteQueue d)) s

/-- TX_U32: start(LE4(v)) (R131). -/
def execTxU32 (v : U32) (s : State) : Host.Outcome State Fault Refusal :=
  acceptIfReady (start (wordQueue v)) s

/-- TX_CYCLE: start of the frame's bytes (R132). A term with another number of values than N_VALUES does not fit the
port (R109; log 14). -/
def execTxCycle (status : Byte) (values : List U32) (s : State) : Host.Outcome State Fault Refusal :=
  if values.length = s.cfg.tx.nValues.count then acceptIfReady (start (cycleQueue status values)) s
  else .refused .doesNotFitPort

/-- A reserved command: accepted like any command, it sends nothing and raises ReservedCommand (R105, R187). -/
def execReservedCmd (op : Byte) (s : State) : Host.Outcome State Fault Refusal :=
  acceptIfReady (raise (.reservedCommand op)) s

end Sys2Proof.Machine
end

