-- ==== Sys2Proof/Machine/Dispatch.lean ====
section
/-! DEFINITION. One arm for each row of spec/opcode_table.json (40_transmitter.md rule R129, 41_frame_sync.md rule R150). -/

namespace Sys2Proof.Machine

def exec (i : Instr) (s : State) : Host.Outcome State Fault Refusal :=
  match i with
  | .txByte d => Sys2Proof.Machine.execTxByte d s
  | .txU32 v => Sys2Proof.Machine.execTxU32 v s
  | .txCycle status values => Sys2Proof.Machine.execTxCycle status values s
  | .reservedCmd op => Sys2Proof.Machine.execReservedCmd op s
  | .rxByte b => Sys2Proof.Machine.execRxByte b s
  | .rxEos => Sys2Proof.Machine.execRxEos s

end Sys2Proof.Machine
end

