-- ==== Sys2Proof/Machine/Fetch.lean ====
section
/-! DEFINITION. What one boundary of TXU and one occasion of RXU do before an operation runs: the order within a boundary
(40_transmitter.md rule R122, 70_reset_and_hazards.md rule R212), the handshake (10_state.md rules R53 and R55), and
which unit moves (60_exceptions.md rule R190; log 4). -/

namespace Sys2Proof.Machine

/-- What a boundary comes to: it is over, an operation runs on the state given, or the presented word is refused. -/
inductive Fetched where
  | done (s : State)
  | run (i : Instr) (s : State)
  | reject (r : Refusal)
deriving DecidableEq, Repr

/-- Accept(cmd_word) with the word of the accepting boundary (R53, R129): the decoded command runs on `s`. -/
def acceptWord (w : CmdWord) (s : State) : Fetched :=
  match decode s.cfg.tx.nValues (.cmd w) with
  | .ok i => .run i s
  | .error .cmdWidth => .reject .doesNotFitPort

/-- One boundary of TXU (R212): reset, or the tick and then the acceptance test. The pins of this boundary are the first
entry of `txIn`; a held command stays there until it is accepted (R53; log 5). The tick missing at boundary 0 needs no
case: TXU is IDLE then, and a tick in IDLE does nothing (log 6). -/
def fetchTx (s : State) : Fetched :=
  match s.txIn with
  | [] => .done s.tick
  | .reset _ :: rest => .done { s.resetTx with txIn := rest }
  | .idle :: rest => .done { s.tick with txIn := rest }
  | .offer w :: rest =>
    if s.tick.tx.ready then acceptWord w { s.tick with txIn := rest } else .done { s.tick with txIn := rest }
  | .hold w :: rest =>
    if s.tick.tx.ready then acceptWord w { s.tick with txIn := rest } else .done s.tick

/-- One occasion of RXU (R212): reset, or one token if one is presented; with none, RXU makes no step (R55). -/
def fetchRx (s : State) : Fetched :=
  match s.rxIn with
  | [] => .done s
  | .reset :: rest => .done { s.resetRx with rxIn := rest }
  | .token t :: rest => .run (decodeTok t) { s with rxIn := rest }

/-- The unit that moves next (log 4). -/
def State.nextAgent (s : State) : Agent := s.sched.headD .txu

/-- The state with that entry of the schedule used up. -/
def State.popSched (s : State) : State := { s with sched := s.sched.tail }

/-- The next boundary of the unit whose turn it is. -/
def fetch (s : State) : Fetched :=
  match s.nextAgent with
  | .txu => fetchTx s.popSched
  | .rxu => fetchRx s.popSched

/-- The word placed as the next input of its port, its unit moving next (log 16). A command is held until accepted. -/
def placeWord (p : PortWord) (s : State) : State :=
  match p with
  | .cmd w => { s with txIn := .hold w :: s.txIn, sched := .txu :: s.sched }
  | .tok t => { s with rxIn := .token t :: s.rxIn, sched := .rxu :: s.sched }

end Sys2Proof.Machine
end

