-- ==== Sys2Proof/Machine/Step.lean ====
section
/-! DEFINITION. One step: one boundary of TXU, or one occasion of RXU (00_scope.md rule R23, 70_reset_and_hazards.md rule
R212). -/

namespace Sys2Proof.Machine

/-- What a boundary comes to, as the step's outcome: the operation that was taken runs. -/
def Fetched.outcome (f : Fetched) : Host.Outcome State Fault Refusal :=
  match f with
  | .done s' => .next s'
  | .run i s' => exec i s'
  | .reject r => .refused r

/-- One step of the unit whose turn it is. -/
def step (s : State) : Host.Outcome State Fault Refusal := (fetch s).outcome

/-- The state whose next step runs the word of spec/opcode_table.json with these bits (log 15, log 16). -/
def State.withFetchWord (s : State) (nbits w : Nat) : State :=
  placeWord (tableWord s.cfg.tx.nValues nbits w) s

end Sys2Proof.Machine
end

