-- ==== Sys2Proof/Machine/Caller.lean ====
section
/-! DEFINITION. The environment's programs: the caller of 30_encoding.md rule R110 and the pseudo-instructions of rule
R111. They are inputs of the machine, not operations of it. -/

namespace Sys2Proof.Machine

/-- A line of a TXU program (R110): a command, a raw word (`.cmd`), or `wait n`. -/
inductive CallerLine where
  | cmd (i : Instr)
  | raw (w : CmdWord)
  | wait (n : Nat)
deriving DecidableEq, Repr

/-- A word the caller presents and holds, after `delay` ticks. The boundary at which the previous command was accepted
takes no second one (R53), so a wait counts from the boundary after it. -/
def presentAfter (afterCmd : Bool) (delay : Nat) (w : CmdWord) : List TxInput :=
  List.replicate (if afterCmd then delay - 1 else delay) .idle ++ [.hold w]

/-- The caller's presenting of the lines that are left, `delay` ticks of waiting having gathered (R110; log 23). -/
def callerFrom (n : NValues) : Bool → Nat → List CallerLine → List TxInput
  | _, _, [] => []
  | afterCmd, delay, .wait k :: rest => callerFrom n afterCmd (delay + k) rest
  | afterCmd, delay, .raw w :: rest => presentAfter afterCmd delay w ++ callerFrom n true 0 rest
  | afterCmd, delay, .cmd i :: rest =>
    match encode n i with
    | .cmd w => presentAfter afterCmd delay w ++ callerFrom n true 0 rest
    | .tok _ => callerFrom n afterCmd delay rest

/-- The inputs of a TXU program from boundary 0 on. -/
def callerInputs (n : NValues) (lines : List CallerLine) : List TxInput := callerFrom n false 0 lines

/-- The inputs of an RXU program: its tokens in order (R110). -/
def tokenInputs (tokens : List Instr) : List RxInput :=
  tokens.filterMap fun i =>
    match encode .three i with
    | .cmd _ => none
    | .tok t => some (.token t)

/-! ### Pseudo-instructions (R111) -/

def txpre : List Instr := [.txByte pre0, .txByte pre1, .txByte pre2]

def txframe (status : Byte) (values : List U32) : List Instr :=
  txpre ++ .txByte status :: values.map .txU32

def txw4 (v : U32) : List Instr := (le4 v).map .txByte

def rxs (bytes : List Byte) : List Instr := bytes.map .rxByte

def rxframe (status : Byte) (values : List U32) : List Instr := rxs (frameBytes status values)

/-- The state with a TXU program as its coming inputs. -/
def State.withCaller (lines : List CallerLine) (s : State) : State :=
  { s with txIn := callerInputs s.cfg.tx.nValues lines }

/-- The state with these tokens as RXU's next inputs, RXU moving once for each. -/
def State.withTokens (tokens : List Instr) (s : State) : State :=
  { s with
    rxIn := tokenInputs tokens ++ s.rxIn
    sched := List.replicate (tokenInputs tokens).length .rxu ++ s.sched }

end Sys2Proof.Machine
end

