-- ==== Sys2Proof/Safety.lean ====
section
/-! DEFINITION. The terms claims are made in: the invariants of the two units, the closed form of the line, the length of a
command, and the result of an RXU run (10_state.md rules R32 to R45, 40_transmitter.md rules R124, R133 to R135,
42_payload_extract.md rule R179). The block has no fault (R25), so a run is safe when it
meets `State.Inv` at every boundary. -/

namespace Sys2Proof.Machine

/-! ### Invariants -/

/-- The values TX_QLEN may have (R32). -/
abbrev legalQLen (n : NValues) (len : BitVec 5) : Prop :=
  len.toNat = 0 ∨ len.toNat = 1 ∨ len.toNat = 4 ∨ len.toNat = n.frameLen

/-- TXU between commands (R34, R35, R37, R38; TX_SHREG = 0 by R65 and R126). -/
abbrev Txu.IdleOk (t : Txu) : Prop :=
  t.line = true ∧ t.shreg = 0#16 ∧ t.bitcnt = 0#4 ∧ t.timer = 0#16 ∧ t.qi = t.qlen

/-- TXU with a symbol on the line: the level is bit 0 of TX_SHREG (R35), which holds what is left of the symbol of
TX_Q[TX_QI] (R36, R39), TX_BITCNT of its bits (R37), with ticks left in this one (R38). -/
abbrev Txu.BitOk (c : TxConfig) (t : Txu) : Prop :=
  t.line = t.shreg.getLsbD 0 ∧ t.bitcnt ≠ 0#4 ∧ t.bitcnt.toNat ≤ symbolLen c.kStop ∧
    t.shreg = symbol c.kStop (t.queueByte t.qi) >>> (symbolLen c.kStop - t.bitcnt.toNat) ∧
    t.timer ≠ 0#16 ∧ t.timer ≤ holdTicks c ∧ t.qi < t.qlen

/-- TXU between two symbols of one command (R34, R35, R37, R38, R127). -/
abbrev Txu.GapOk (c : TxConfig) (t : Txu) : Prop :=
  t.line = true ∧ t.shreg = 0#16 ∧ t.bitcnt = 0#4 ∧ t.timer ≠ 0#16 ∧ t.timer ≤ gapTicks c ∧ 0#5 < t.qi ∧ t.qi < t.qlen

/-- What holds of TXU at every boundary. -/
abbrev Txu.Inv (c : TxConfig) (t : Txu) : Prop :=
  legalQLen c.nValues t.qlen ∧ (t.phase = .idle → t.IdleOk) ∧ (t.phase = .bit → t.BitOk c) ∧
    (t.phase = .gap → t.GapOk c)

/-- The line invariant as R124 words it. -/
abbrev Txu.LineOk (t : Txu) : Prop :=
  (t.phase = .bit → t.line = t.shreg.getLsbD 0) ∧ (t.phase = .idle ∨ t.phase = .gap → t.line = true)

/-- A legal history slot: a byte, or EMPTY (R42, R43). -/
abbrev slotOk (p : BitVec 9) : Prop := p ≤ emptySlot

/-- What holds of RXU between tokens: legal slots (R43), an EMPTY in RX_PREV1 has one in RX_PREV2 behind it (R153, R155),
RX_CAPIDX in its range and 0 outside CAPTURE (R44, R168, R176), and both slots 0x0FF through a capture (R154). -/
abbrev Rxu.Inv (n : NValues) (r : Rxu) : Prop :=
  slotOk r.prev2 ∧ slotOk r.prev1 ∧ (r.prev1 = emptySlot → r.prev2 = emptySlot) ∧
    r.capidx ≤ lastCapIdx n ∧ (r.state ≠ .capture → r.capidx = 0#5) ∧
    (r.state = .capture → r.prev2 = slotOf pre0 ∧ r.prev1 = slotOf pre1)

/-- The record port and the output list: a record on the port is the last one emitted, has N_VALUES values, and RXU has
just resumed scanning with an empty history (R56, R168, R172). -/
abbrev State.PortOk (s : State) : Prop :=
  s.rx.recOut ≠ none →
    s.records.getLast? = s.rx.recOut ∧
      (s.rx.recOut.map fun rec => rec.values.length) = some s.cfg.rx.nValues.count ∧
      s.rx.state = .scan ∧ s.rx.prev2 = emptySlot ∧ s.rx.prev1 = emptySlot

/-- The invariant of the machine. -/
structure State.Inv (s : State) : Prop where
  tx : s.tx.Inv s.cfg.tx
  rx : s.rx.Inv s.cfg.rx.nValues
  port : s.PortOk

/-! ### The line in closed form -/

/-- S, the ticks of one symbol (R133). -/
def symbolTicks (c : TxConfig) : Nat := symbolLen c.kStop * c.holdUs

/-- The ticks of a command of `len` bytes (R135). -/
def durationTicks (c : TxConfig) (len : Nat) : Nat := len * symbolTicks c + (len - 1) * c.gapUs

/-- Line(t0 + n) for a command of these bytes accepted at t0 (R133): in symbol k = n / (S + g), at its tick
n % (S + g), the level of position p for p·H up to (p+1)·H, and 1 in the gap after it; 1 once the command is over
(R134). -/
def lineOf (c : TxConfig) (bytes : List Byte) (n : Nat) : Bool :=
  match bytes[n / (symbolTicks c + c.gapUs)]? with
  | none => true
  | some d =>
    if n % (symbolTicks c + c.gapUs) < symbolTicks c then
      (symbol c.kStop d).getLsbD (n % (symbolTicks c + c.gapUs) / c.holdUs)
    else true

/-- The bytes an operation puts in TX_Q (R101): none for a reserved command or a token. -/
def queuedBytes : Instr → List Byte
  | .txByte d => byteQueue d
  | .txU32 v => wordQueue v
  | .txCycle status values => cycleQueue status values
  | .reservedCmd _ => []
  | .rxByte _ => []
  | .rxEos => []

/-- A command of these bytes has just been accepted: its bytes are in TX_Q in wire order, and the start bit of the first
is on the line (R39, R125, R129). -/
structure Txu.Started (c : TxConfig) (bytes : List Byte) (t : Txu) : Prop where
  phase : t.phase = .bit
  line : t.line = false
  shreg : bytes.head?.map (symbol c.kStop) = some t.shreg
  bitcnt : t.bitcnt.toNat = symbolLen c.kStop
  timer : t.timer.toNat = c.holdUs
  qlen : t.qlen.toNat = bytes.length
  qi : t.qi = 0#5
  queue : ∀ k < bytes.length, t.q[k]? = bytes[k]?

/-- The unchanged part of the state when TXU's registers are set aside: all of RXU, the record list, the build, the
inputs and the schedule. -/
structure State.SameButTx (s t : State) : Prop where
  cfg : t.cfg = s.cfg
  rx : t.rx = s.rx
  records : t.records = s.records
  txIn : t.txIn = s.txIn
  rxIn : t.rxIn = s.rxIn
  sched : t.sched = s.sched

/-- The unchanged part of the state when RXU's registers and the record list are set aside. -/
structure State.SameButRx (s t : State) : Prop where
  cfg : t.cfg = s.cfg
  tx : t.tx = s.tx
  txIn : t.txIn = s.txIn
  rxIn : t.rxIn = s.rxIn
  sched : t.sched = s.sched
  free : t.free = s.free

/-- `k` steps of the machine. -/
abbrev run (k : Nat) (s : State) : Host.Outcome State Fault Refusal := Sys2Proof.core.run k s

/-- rst_tx at a boundary with these pins. -/
def TxInput.isReset : TxInput → Bool
  | .reset _ => true
  | .idle => false
  | .offer _ => false
  | .hold _ => false

/-- This step is a boundary of TXU with rst_tx = 1. -/
abbrev State.TxResetNow (s : State) : Prop := s.nextAgent = .txu ∧ s.txIn.head?.map TxInput.isReset = some true

/-- This step is an occasion of RXU with rst_rx = 1. -/
abbrev State.RxResetNow (s : State) : Prop := s.nextAgent = .rxu ∧ s.rxIn.head? = some .reset

/-- No input is coming: every step is a boundary of TXU with idle pins. -/
abbrev State.Quiet (s : State) : Prop := s.sched = [] ∧ s.txIn = []

/-- The pattern FF FF FE (R97, R152). -/
def preamble : List Byte := [pre0, pre1, pre2]

/-! ### The end of an RXU run -/

/-- The result of an RXU run, once RX_STATE = STOPPED ends it: the records emitted, in order (R179). -/
def State.rxResult (s : State) : Option (List Record) := if s.rx.rxDone then some s.records else none

/-- The exit status of an ended RXU run: always 0 (R57, R179). -/
def State.rxExitStatus (s : State) : Option Nat := if s.rx.rxDone then some 0 else none

end Sys2Proof.Machine
end

