-- ==== Sys2Proof/Certificates/Slice0/Obligations.lean ====
section
/-! DEFINITION. The statements for the provers, in the order of OBLIGATIONS.json. Each docstring names the rules of spec/ it
comes from, and the log entries of any choice of the model it rests on. -/

open Sys2Proof Sys2Proof.Machine

/-! ### Encodings -/

/-- O1. R102 to R108: decoding the word of a well-formed operation gives it back, for every build and every operand. -/
def Obligations.DecodeEncodeRoundTrip : Prop :=
  ∀ (n : NValues) (i : Instr), i.wellFormed n = true → decode n (encode n i) = .ok i

/-- O2. R100 to R107: words written out from the spec's encodings and examples decode to what they stand for. -/
def Obligations.SpecWordsDecode : Prop :=
  decode .three (.cmd (bytesOfNat 14 0x4101)) = .ok (.txByte 0x41) ∧
  decode .three (.cmd (bytesOfNat 14 0x1234567802)) = .ok (.txU32 0x12345678) ∧
  decode .three (.cmd (bytesOfNat 14 0xDEADBEEF12345678000012340503)) =
    .ok (.txCycle 0x05 [0x00001234, 0x12345678, 0xDEADBEEF]) ∧
  decode .four (.cmd (bytesOfNat 18 0x12345678FFFFFFFF00000000FEFFFFFFFE03)) =
    .ok (.txCycle 0xFE [0xFEFFFFFF, 0x00000000, 0xFFFFFFFF, 0x12345678]) ∧
  decode .three (.cmd (bytesOfNat 14 0x00)) = .ok (.reservedCmd 0x00) ∧
  decode .three (.tok 0x0FE) = .ok (.rxByte 0xFE) ∧
  decode .three (.tok 0x1A5) = .ok .rxEos

/-- O3. R108: the decoder reads a command word of CW bits, given as the number W, bit for bit as the rule says, every
word of CW bits being some W; and a token as the rule says. -/
def Obligations.DecodeReadsBits : Prop :=
  ∀ n : NValues,
    (∀ W : Nat, W < 2 ^ (16 + 32 * n.count) →
      decode n (.cmd (bytesOfNat n.cmdBytes W)) = .ok
        (if W % 256 = 1 then .txByte (BitVec.ofNat 8 (W >>> 8))
         else if W % 256 = 2 then .txU32 (BitVec.ofNat 32 (W >>> 8))
         else if W % 256 = 3 then
           .txCycle (BitVec.ofNat 8 (W >>> 8))
             ((List.range n.count).map fun i => BitVec.ofNat 32 (W >>> (32 * i + 16)))
         else .reservedCmd (BitVec.ofNat 8 W))) ∧
    (∀ w : CmdWord, 8 * w.length = 16 + 32 * n.count →
      ∃ W < 2 ^ (16 + 32 * n.count), w = bytesOfNat n.cmdBytes W) ∧
    (∀ t : Token, decode n (.tok t) = .ok (if t.getLsbD 8 = true then .rxEos else .rxByte (t.setWidth 8)))

/-- O4. R108: whatever the decoder accepts is a well-formed operation of the port the word stands on. -/
def Obligations.DecodedIsWellFormed : Prop :=
  ∀ (n : NValues) (p : PortWord) (i : Instr), decode n p = .ok i →
    i.wellFormed n = true ∧ i.agent = (match p with | .cmd _ => .txu | .tok _ => .rxu)

/-- O5. R100, R102, R103, R105, R107: the bits an operation does not use have no effect. -/
def Obligations.IgnoredBitsHaveNoEffect : Prop :=
  (∀ (n : NValues) (w w' : CmdWord), w.length = n.cmdBytes → w'.length = n.cmdBytes →
    w[0]? = w'[0]? → w[0]? ≠ some 0x03 →
    (w[0]? = some 0x01 → w[1]? = w'[1]?) →
    (w[0]? = some 0x02 → ∀ k, 1 ≤ k → k ≤ 4 → w[k]? = w'[k]?) →
    decode n (.cmd w) = decode n (.cmd w')) ∧
  (∀ (n : NValues) (t t' : Token), t.getLsbD 8 = true → t'.getLsbD 8 = true →
    decode n (.tok t) = decode n (.tok t'))

/-- O6. R96: the frame by byte offset. -/
def Obligations.FrameLayout : Prop :=
  ∀ (n : NValues) (status : Byte) (values : List U32), values.length = n.count →
    (frameBytes status values).length = 4 + 4 * n.count ∧
    (frameBytes status values)[0]? = some 0xFF ∧ (frameBytes status values)[1]? = some 0xFF ∧
    (frameBytes status values)[2]? = some 0xFE ∧ (frameBytes status values)[3]? = some status ∧
    (∀ i j : Nat, i < n.count → j < 4 →
      (frameBytes status values)[4 + 4 * i + j]? = values[i]?.map fun v => v.extractLsb' (8 * j) 8) ∧
    (frameBytes status values).drop 3 = payloadBytes status values ∧
    (payloadBytes status values).length = 1 + 4 * n.count

/-- O7. R104: bytes 1 to 1 + 4·N_VALUES of TX_CYCLE's word are the frame's payload bytes, and no byte is left over. -/
def Obligations.CycleWordHoldsPayload : Prop :=
  ∀ (n : NValues) (w : CmdWord) (status : Byte) (values : List U32),
    decode n (.cmd w) = .ok (.txCycle status values) → w = 0x03 :: (frameBytes status values).drop 3

/-- O8. R91, R92: the levels of a symbol by position, the bits above it 0, and the rule's examples. -/
def Obligations.SymbolLevels : Prop :=
  (∀ (k : StopBits) (d : Byte),
    (symbol k d).getLsbD 0 = false ∧
    (∀ i < 8, (symbol k d).getLsbD (1 + i) = d.getLsbD i) ∧
    (∀ p, 9 ≤ p → p < 9 + k.count → (symbol k d).getLsbD p = true) ∧
    (∀ p, 9 + k.count ≤ p → (symbol k d).getLsbD p = false)) ∧
  symbol .one 0x41 = 0x282 ∧ symbol .two 0x41 = 0x682 ∧ symbol .one 0x00 = 0x200 ∧ symbol .two 0x00 = 0x600 ∧
  symbol .one 0xFF = 0x3FE ∧ symbol .two 0xFF = 0x7FE

/-- O9. R167, R175 (and R71's bytes): u32le is the exact sum of its bytes' weights, LE4 splits a value into the bytes
v[8j+7:8j], and the two undo each other. -/
def Obligations.LittleEndianExact : Prop :=
  (∀ b0 b1 b2 b3 : Byte,
    (u32le b0 b1 b2 b3).toNat = b0.toNat + 256 * b1.toNat + 65536 * b2.toNat + 16777216 * b3.toNat ∧
    le4 (u32le b0 b1 b2 b3) = [b0, b1, b2, b3]) ∧
  (∀ v : U32, le4 v = (List.range 4).map (fun j => v.extractLsb' (8 * j) 8) ∧
    ∀ b0 b1 b2 b3 : Byte, le4 v = [b0, b1, b2, b3] → u32le b0 b1 b2 b3 = v) ∧
  le4 0x12345678 = [0x78, 0x56, 0x34, 0x12] ∧ u32le 0x78 0x56 0x34 0x12 = 0x12345678

/-! ### The commands of TXU -/

/-- O10. R125, R129, R130: TX_BYTE completes at every READY state, queues [d] and starts its symbol. -/
def Obligations.TxByteStarts : Prop :=
  ∀ (s : State) (d : Byte), s.tx.ready = true →
    ∃ t, exec (.txByte d) s = .next t ∧ t.tx.Started s.cfg.tx [d]

/-- O11. R125, R129, R131: TX_U32 completes at every READY state, queues the four bytes least significant first and starts
the first symbol. -/
def Obligations.TxU32Starts : Prop :=
  ∀ (s : State) (v : U32), s.tx.ready = true →
    ∃ t, exec (.txU32 v) s = .next t ∧
      t.tx.Started s.cfg.tx [v.extractLsb' 0 8, v.extractLsb' 8 8, v.extractLsb' 16 8, v.extractLsb' 24 8]

/-- O12. R125, R129, R132: TX_CYCLE with N_VALUES values completes at every READY state, queues the frame and starts its
first symbol. -/
def Obligations.TxCycleStarts : Prop :=
  ∀ (s : State) (status : Byte) (values : List U32), s.tx.ready = true →
    values.length = s.cfg.tx.nValues.count →
    ∃ t, exec (.txCycle status values) s = .next t ∧
      t.tx.Started s.cfg.tx ([0xFF, 0xFF, 0xFE, status] ++
        values.flatMap fun v => [v.extractLsb' 0 8, v.extractLsb' 8 8, v.extractLsb' 16 8, v.extractLsb' 24 8])

/-- O13. R130 to R132 (frame of TX_BYTE, TX_U32, TX_CYCLE): TX_ERR and everything outside TXU's registers stays. The bytes
of TX_Q from TX_QLEN on are free (log 7), so nothing is said of them. -/
def Obligations.TxCommandFrame : Prop :=
  ∀ (s t : State) (i : Instr), queuedBytes i ≠ [] → exec i s = .next t →
    s.SameButTx t ∧ t.tx.err = s.tx.err

/-- O14. R187 (with R186): a reserved command sets TX_ERR, READY stays 1 and no other state changes. -/
def Obligations.ReservedCommandSetsErr : Prop :=
  ∀ (s : State) (op : Byte), s.tx.ready = true →
    exec (.reservedCmd op) s = .next { s with tx := { s.tx with err := true } } ∧
    ∀ t, exec (.reservedCmd op) s = .next t → t.tx.phase = .idle ∧ t.tx.ready = true

/-- O15. R53, R188 (the model's reading of a command met while BUSY: log 13): it is not taken, and nothing changes. -/
def Obligations.BusyCommandWaits : Prop :=
  ∀ (s : State) (i : Instr), i.agent = .txu → i.wellFormed s.cfg.tx.nValues = true → s.tx.busy = true →
    exec i s = .next s

/-- O16. R109 (the model's refusal: log 14): a TX_CYCLE with another number of values, and a command word of another
width at the boundary that would accept it, do not fit the port. -/
def Obligations.MisfitCommandRefused : Prop :=
  (∀ (s : State) (status : Byte) (values : List U32), values.length ≠ s.cfg.tx.nValues.count →
    exec (.txCycle status values) s = .refused .doesNotFitPort) ∧
  (∀ (s : State) (w : CmdWord) (rest : List TxInput), s.nextAgent = .txu → s.tick.tx.ready = true →
    (s.txIn = .hold w :: rest ∨ s.txIn = .offer w :: rest) → 8 * w.length ≠ 16 + 32 * s.cfg.tx.nValues.count →
    step s = .refused .doesNotFitPort)

/-- O17. R25, R138, R185: for every well-formed operation, in every state, exec answers a next state. For a command in a
BUSY state that state is the unchanged one, which is the model's reading of a command that is not taken (log 13); where a
command has its own effect is said by O10, O11, O12 and O14. -/
def Obligations.WellFormedOperationsComplete : Prop :=
  ∀ (s : State) (i : Instr), i.wellFormed s.cfg.tx.nValues = true → ∃ t, exec i s = .next t

/-! ### The bit engine -/

/-- O18. R9, R13, R121, R38: H, its calibrated value, and that TX_TIMER holds H and GAP_US exactly, H not being 0. -/
def Obligations.HoldTimeOfConfig : Prop :=
  bitPeriodUs = 104 ∧
  ∀ c : TxConfig, c.holdUs = 104 - c.compUs.us + c.loopOverheadUs ∧ (c.Calibrated → c.holdUs = 104) ∧
    (holdTicks c).toNat = c.holdUs ∧ 0 < c.holdUs ∧ (gapTicks c).toNat = c.gapUs

/-- O19. R123, R198: in IDLE a tick changes nothing; otherwise a tick that does not bring TX_TIMER to 0 only counts it
down. -/
def Obligations.TickCountsDown : Prop :=
  ∀ s : State, s.Quiet →
    (s.tx.phase = .idle → step s = .next s) ∧
    (s.tx.phase ≠ .idle → s.tx.timer ≠ 1 → step s = .next { s with tx := { s.tx with timer := s.tx.timer - 1 } })

/-- O20. R123: when a bit that is not the symbol's last has been held, the register shifts, the next bit goes on the line and
the timer is H again. -/
def Obligations.TickShiftsNextBit : Prop :=
  ∀ s : State, s.Quiet → s.tx.phase = .bit → s.tx.timer = 1 → s.tx.bitcnt ≠ 1 →
    step s = .next { s with tx := { s.tx with
      shreg := s.tx.shreg >>> 1
      bitcnt := s.tx.bitcnt - 1
      line := s.tx.shreg.getLsbD 1
      timer := BitVec.ofNat 16 s.cfg.tx.holdUs } }

/-- O21. R126, R128, R125: when the last stop bit has been held, the command is over, a gap begins, or the next byte's symbol
is loaded. -/
def Obligations.TickEndsSymbol : Prop :=
  ∀ s : State, s.Quiet → s.tx.phase = .bit → s.tx.timer = 1 → s.tx.bitcnt = 1 →
    ∃ t, step s = .next t ∧ s.SameButTx t ∧ t.tx.qi = s.tx.qi + 1 ∧ t.tx.err = s.tx.err ∧ t.tx.q = s.tx.q ∧
      t.tx.qlen = s.tx.qlen ∧
      (s.tx.qi + 1 = s.tx.qlen →
        t.tx.phase = .idle ∧ t.tx.line = true ∧ t.tx.timer = 0 ∧ t.tx.bitcnt = 0 ∧ t.tx.ready = true) ∧
      (s.tx.qi + 1 ≠ s.tx.qlen → 0 < s.cfg.tx.gapUs →
        t.tx.phase = .gap ∧ t.tx.line = true ∧ t.tx.timer.toNat = s.cfg.tx.gapUs ∧ t.tx.bitcnt = 0) ∧
      (s.tx.qi + 1 ≠ s.tx.qlen → s.cfg.tx.gapUs = 0 → ∀ d, s.tx.q[(s.tx.qi + 1).toNat]? = some d →
        t.tx.phase = .bit ∧ t.tx.line = false ∧ t.tx.timer.toNat = s.cfg.tx.holdUs ∧
          t.tx.shreg = symbol s.cfg.tx.kStop d ∧ t.tx.bitcnt.toNat = 9 + s.cfg.tx.kStop.count)

/-- O22. R123, R125, R127: at the end of a gap the next byte's symbol is loaded. -/
def Obligations.TickEndsGap : Prop :=
  ∀ (s : State) (d : Byte), s.Quiet → s.tx.phase = .gap → s.tx.timer = 1 →
    s.tx.q[s.tx.qi.toNat]? = some d →
    step s = .next { s with tx := { s.tx with
      phase := .bit
      line := false
      timer := BitVec.ofNat 16 s.cfg.tx.holdUs
      shreg := symbol s.cfg.tx.kStop d
      bitcnt := BitVec.ofNat 4 (9 + s.cfg.tx.kStop.count) } }

/-- O23. R133: the line and BUSY of one command that is not reset, for every tick from the boundary t0 that accepted it,
whatever else is presented meanwhile. At t_end the tick leaves TXU IDLE, before any new command is accepted there; with none,
it stays so. -/
def Obligations.LineOfOneCommand : Prop :=
  ∀ (s s0 : State) (i : Instr), s.tx.ready = true → queuedBytes i ≠ [] → exec i s = .next s0 →
    s0.sched = [] → (∀ x ∈ s0.txIn, x.isReset = false) →
      let H := s.cfg.tx.holdUs
      let S := (9 + s.cfg.tx.kStop.count) * H
      let g := s.cfg.tx.gapUs
      let L := (queuedBytes i).length
      let tEnd := L * S + (L - 1) * g
      (∀ n < tEnd, ∃ t, run n s0 = .next t ∧ t.tx.busy = true ∧
        (∀ k p d, (queuedBytes i)[k]? = some d → p ≤ 8 + s.cfg.tx.kStop.count →
          k * (S + g) + p * H ≤ n → n < k * (S + g) + (p + 1) * H →
          t.tx.line = (symbol s.cfg.tx.kStop d).getLsbD p) ∧
        (∀ k, k + 1 < L → k * (S + g) + S ≤ n → n < k * (S + g) + S + g → t.tx.line = true)) ∧
      (∃ t, run (tEnd - 1) s0 = .next t ∧ t.tick.tx.phase = .idle ∧ t.tick.tx.line = true) ∧
      (s0.txIn = [] → ∀ n, tEnd ≤ n → ∃ t, run n s0 = .next t ∧ t.tx.phase = .idle ∧ t.tx.line = true)

/-- O24. R135: the durations of a calibrated TXU with GAP_US = 0. -/
def Obligations.CalibratedDurations : Prop :=
  ∀ c : TxConfig, c.Calibrated → c.gapUs = 0 →
    (c.kStop = .one → durationTicks c 1 = 1040 ∧ durationTicks c 4 = 4160 ∧
      durationTicks c NValues.three.frameLen = 16640 ∧ durationTicks c NValues.four.frameLen = 20800) ∧
    (c.kStop = .two → durationTicks c 1 = 1144 ∧ durationTicks c 4 = 4576 ∧
      durationTicks c NValues.three.frameLen = 18304 ∧ durationTicks c NValues.four.frameLen = 22880)

/-- O25. R128, R137: commands each held until accepted, with GAP_US = 0, put on the line what one command of all their bytes
would, from the first one's acceptance on. -/
def Obligations.BackToBackLine : Prop :=
  ∀ (s : State) (is : List Instr), s.Inv → s.tx.ready = true → s.sched = [] → s.cfg.tx.gapUs = 0 →
    (∀ i ∈ is, queuedBytes i ≠ [] ∧ i.wellFormed s.cfg.tx.nValues = true) →
    ∀ n : Nat, ∃ t, run (n + 1) (s.withCaller (is.map .cmd)) = .next t ∧
      t.tx.line = lineOf s.cfg.tx (is.flatMap queuedBytes) n

/-- O26. R111: with GAP_US = 0, `txframe` and `txc` of the same operands, and `txw4 v` and `txw v`, give the same levels at
the same ticks. -/
def Obligations.PseudoInstructionsSameLine : Prop :=
  ∀ s : State, s.tx.ready = true → s.sched = [] → s.cfg.tx.gapUs = 0 → ∀ n : Nat,
    (∀ (status : Byte) (values : List U32), values.length = s.cfg.tx.nValues.count →
      ∃ a b, run n (s.withCaller [.cmd (.txCycle status values)]) = .next a ∧
        run n (s.withCaller ((txframe status values).map .cmd)) = .next b ∧ a.tx.line = b.tx.line) ∧
    (∀ v : U32, ∃ a b, run n (s.withCaller [.cmd (.txU32 v)]) = .next a ∧
      run n (s.withCaller ((txw4 v).map .cmd)) = .next b ∧ a.tx.line = b.tx.line)

/-- O27. R53, R128: a held command is never dropped: within the time of the longest command it runs, and until then it stays
presented. -/
def Obligations.HeldCommandIsAccepted : Prop :=
  ∀ (s : State) (w : CmdWord) (rest : List TxInput) (i : Instr), s.Inv → s.sched = [] → s.txIn = .hold w :: rest →
    decode s.cfg.tx.nValues (.cmd w) = .ok i →
    ∃ k ≤ durationTicks s.cfg.tx 20, (∃ t u, run k s = .next t ∧ fetch t = .run i u ∧ u.tx.ready = true) ∧
      ∀ j ≤ k, ∃ t, run j s = .next t ∧ t.txIn = .hold w :: rest

/-! ### The tokens of RXU -/

/-- O28. R152: an RX_BYTE in SCAN completes, and recognizes a preamble exactly when the rule's condition holds. -/
def Obligations.PreambleMatchExactly : Prop :=
  ∀ (s : State) (b : Byte), s.rx.state = .scan →
    ∃ t, exec (.rxByte b) s = .next t ∧
      (t.rx.state = .capture ↔ s.rx.prev2 = 0x0FF ∧ s.rx.prev1 = 0x0FF ∧ b = 0xFE)

/-- O29. R154: what a match does; the history keeps its bytes. rec_valid is 0 (R150). -/
def Obligations.MatchEntersCapture : Prop :=
  ∀ s : State, s.rx.state = .scan → s.rx.prev2 = 0x0FF → s.rx.prev1 = 0x0FF →
    exec (.rxByte 0xFE) s = .next { s with rx := { s.rx with state := .capture, capidx := 0, recOut := none } }

/-- O30. R153: what a byte that does not match does; an EMPTY in RX_PREV1 moves into RX_PREV2. -/
def Obligations.NoMatchShiftsHistory : Prop :=
  ∀ (s : State) (b : Byte), s.rx.state = .scan → ¬(s.rx.prev2 = 0x0FF ∧ s.rx.prev1 = 0x0FF ∧ b = 0xFE) →
    exec (.rxByte b) s =
      .next { s with rx := { s.rx with prev2 := s.rx.prev1, prev1 := b.setWidth 9, recOut := none } }

/-- O31. R162: RX_BYTE in SCAN never writes RX_CAPBUF and never emits, and no operation of RXU reads TXU's state. -/
def Obligations.ScanByteFrame : Prop :=
  (∀ (s t : State) (b : Byte), s.rx.state = .scan → exec (.rxByte b) s = .next t →
    s.SameButRx t ∧ t.rx.capbuf = s.rx.capbuf ∧ t.records = s.records ∧ t.rx.recOut = none) ∧
  (∀ (s t : State) (i : Instr) (tx' : Txu), i.agent = .rxu → exec i s = .next t →
    exec i { s with tx := tx' } = .next { t with tx := tx' })

/-- O32. R166: a payload byte that is not the last is stored at RX_CAPIDX, which goes up by one, and no record is emitted. That
nothing else changes, the buffer's entries above RX_CAPIDX among it, which 93_implementation_defined.md item 15 leaves open,
is the model's reading (log 9). -/
def Obligations.CaptureStoresByte : Prop :=
  ∀ (s : State) (b : Byte), s.rx.state = .capture → s.rx.capidx.toNat < 4 * s.cfg.rx.nValues.count →
    ∃ t, exec (.rxByte b) s = .next t ∧ s.SameButRx t ∧ t.records = s.records ∧ t.rx.recOut = none ∧
      t.rx.state = .capture ∧ t.rx.prev2 = s.rx.prev2 ∧ t.rx.prev1 = s.rx.prev1 ∧
      t.rx.capidx.toNat = s.rx.capidx.toNat + 1 ∧ t.rx.capbuf[s.rx.capidx.toNat]? = some b ∧
      ∀ k, k ≠ s.rx.capidx.toNat → t.rx.capbuf[k]? = s.rx.capbuf[k]?

/-- O33. R166, R168, R170, R171: the last payload byte completes the record: its status and its N_VALUES values come from the
buffer, it is emitted, and scanning resumes with an empty history. That the buffer keeps its other bytes after the record,
which 93_implementation_defined.md item 15 leaves open, is the model's reading (log 9). -/
def Obligations.CaptureCompletesRecord : Prop :=
  ∀ (s : State) (b : Byte), s.rx.state = .capture → s.rx.capidx.toNat = 4 * s.cfg.rx.nValues.count →
    ∃ t rec, exec (.rxByte b) s = .next t ∧ s.SameButRx t ∧
      t.rx.recOut = some rec ∧ t.records = s.records ++ [rec] ∧
      t.rx.state = .scan ∧ t.rx.prev2 = 0x100 ∧ t.rx.prev1 = 0x100 ∧ t.rx.capidx = 0 ∧
      t.rx.capbuf[4 * s.cfg.rx.nValues.count]? = some b ∧
      (∀ k, k ≠ 4 * s.cfg.rx.nValues.count → t.rx.capbuf[k]? = s.rx.capbuf[k]?) ∧
      t.rx.capbuf[0]? = some rec.status ∧ rec.values.length = s.cfg.rx.nValues.count ∧
      ∀ i b0 b1 b2 b3, i < s.cfg.rx.nValues.count →
        t.rx.capbuf[1 + 4 * i]? = some b0 → t.rx.capbuf[2 + 4 * i]? = some b1 →
        t.rx.capbuf[3 + 4 * i]? = some b2 → t.rx.capbuf[4 + 4 * i]? = some b3 →
        rec.values[i]? = some (u32le b0 b1 b2 b3)

/-- O34. R176: RX_EOS outside STOPPED stops RXU and drops a partial payload; the history and the buffer stay, and no record
is emitted. -/
def Obligations.EosStops : Prop :=
  ∀ s : State, s.rx.state ≠ .stopped →
    exec .rxEos s = .next { s with rx := { s.rx with state := .stopped, capidx := 0, recOut := none } } ∧
    ∀ t, exec .rxEos s = .next t → t.rx.rxDone = true ∧ rxcap t.rx = 0 ∧ (rxstat t.rx).extractLsb' 0 2 = 2

/-- O35. R177, R207: in STOPPED every token is ignored, and only rst_rx leaves STOPPED. (rec_valid, the port of the step, is
0.) -/
def Obligations.StoppedIgnoresTokens : Prop :=
  (∀ s : State, s.rx.state = .stopped →
    exec .rxEos s = .next { s with rx := { s.rx with recOut := none } } ∧
    ∀ b : Byte, exec (.rxByte b) s = .next { s with rx := { s.rx with recOut := none } }) ∧
  (∀ s t : State, s.rx.state = .stopped → step s = .next t →
    t.records = s.records ∧ (t.rx.state = .stopped ∨ s.RxResetNow))

/-- O36. R79, R196, R209 (frame of RX_BYTE and RX_EOS): no token changes anything of TXU, the build, the inputs or the
schedule. -/
def Obligations.TokenFrame : Prop :=
  ∀ (s t : State) (i : Instr), i.agent = .rxu → exec i s = .next t → s.SameButRx t

/-- O37. R172: value i of a record is at bits [32i+31 : 32i] of rec_values. -/
def Obligations.RecordPortBits : Prop :=
  ∀ (rec : Record) (i : Nat) (v : U32), rec.values.length ≤ 4 → rec.values[i]? = some v →
    rec.valuesPort.extractLsb' (32 * i) 32 = v

/-! ### Streams of tokens -/

/-- O38. R155, R156: fed a stream that FF FF FE does not occur in, from an empty history, the scanner goes on scanning and its
window holds the last two bytes, EMPTY where there is none. -/
def Obligations.ScannerWindow : Prop :=
  ∀ (s : State) (bytes : List Byte), s.rx.state = .scan → s.rx.prev2 = emptySlot → s.rx.prev1 = emptySlot →
    ¬ preamble <:+: bytes →
    ∃ t, run bytes.length (s.withTokens (rxs bytes)) = .next t ∧ t.rx.state = .scan ∧ t.records = s.records ∧
      t.rx.prev1 = (match bytes.reverse with | b :: _ => slotOf b | [] => emptySlot) ∧
      t.rx.prev2 = (match bytes.reverse with | _ :: b :: _ => slotOf b | _ :: [] => emptySlot | [] => emptySlot)

/-- O39. R85: the bytes TX_CYCLE queues, fed to an RXU of the same N_VALUES that is scanning with any history, give exactly
one record, equal to (s, v), on the last byte. -/
def Obligations.LinkRoundTrip : Prop :=
  ∀ (s : State) (status : Byte) (values : List U32), s.rx.state = .scan →
    values.length = s.cfg.rx.nValues.count →
    (∀ k < (frameBytes status values).length,
      ∃ t, run k (s.withTokens (rxs (queuedBytes (.txCycle status values)))) = .next t ∧ t.records = s.records) ∧
    ∃ t, run (frameBytes status values).length (s.withTokens (rxs (queuedBytes (.txCycle status values)))) = .next t ∧
      t.records = s.records ++ [⟨status, values⟩] ∧ t.rx.recOut = some ⟨status, values⟩ ∧
      t.rx.state = .scan ∧ t.rx.prev2 = emptySlot ∧ t.rx.prev1 = emptySlot ∧ t.rx.capidx = 0 ∧ t.tx = s.tx

/-- O40. R160: noise without FF FF FE and then one frame, from reset, give exactly one record, the frame's. -/
def Obligations.Resynchronization : Prop :=
  ∀ (c : Config) (noise : List Byte) (status : Byte) (values : List U32), ¬ preamble <:+: noise →
    values.length = c.rx.nValues.count →
    ∃ t, run (noise ++ frameBytes status values).length
        ((State.resetOf c).withTokens (rxs (noise ++ frameBytes status values))) = .next t ∧
      t.records = [⟨status, values⟩]

/-- O41. R161: frames back to back, from reset, give their records in order, each on the last byte of its frame: after any
whole number of frames the records are theirs. -/
def Obligations.MultiFrame : Prop :=
  ∀ (c : Config) (recs more : List Record), (∀ r ∈ recs ++ more, r.values.length = c.rx.nValues.count) →
    ∃ t, run (recs.flatMap fun r => frameBytes r.status r.values).length
        ((State.resetOf c).withTokens (rxs ((recs ++ more).flatMap fun r => frameBytes r.status r.values))) = .next t ∧
      t.records = recs ∧ t.rx.recOut = recs.getLast? ∧ t.rx.prev2 = emptySlot ∧ t.rx.prev1 = emptySlot

/-- O42. R178: a stream that ends mid-payload gives no record, and RXU is STOPPED with RX_CAPIDX = 0. -/
def Obligations.TruncatedFrameDropped : Prop :=
  ∀ (c : Config) (status : Byte) (part : List Byte), part.length < 4 * c.rx.nValues.count →
    ∃ t u, run (4 + part.length)
        ((State.resetOf c).withTokens (rxs (preamble ++ status :: part) ++ [.rxEos])) = .next t ∧
      t.rx.state = .capture ∧ t.rx.capidx.toNat = 1 + part.length ∧ step t = .next u ∧
      u.records = [] ∧ u.rx.state = .stopped ∧ u.rx.capidx = 0

/-- O43. R169: after a record, FE right behind a payload that ends in FF FF is no match. -/
def Obligations.PayloadBytesNotReused : Prop :=
  ∀ (s : State) (status : Byte) (values : List U32) (tail : List Byte), s.rx.state = .scan →
    values.length = s.cfg.rx.nValues.count → ¬ preamble <:+: tail →
    ∃ t, run (frameBytes status values ++ tail).length
        (s.withTokens (rxs (frameBytes status values ++ tail))) = .next t ∧
      t.rx.state = .scan ∧ t.records = s.records ++ [⟨status, values⟩]

/-- O44. R216: an RXU built for three values, fed a frame of four, emits the status and the first three values, and scans and
drops the fourth; it goes on scanning when FF FF FE is not in that value's bytes. -/
def Obligations.MismatchFourToThree : Prop :=
  ∀ (s : State) (status : Byte) (v0 v1 v2 v3 : U32), s.rx.state = .scan → s.cfg.rx.nValues = .three →
    ∃ t, run 20 (s.withTokens (rxframe status [v0, v1, v2, v3])) = .next t ∧
      t.records = s.records ++ [⟨status, [v0, v1, v2]⟩] ∧ (¬ preamble <:+: le4 v3 → t.rx.state = .scan)

/-- O45. R56, R77, R166: a step appends at most one record, and only an RX_BYTE in CAPTURE at the last index does. -/
def Obligations.EmitOnlyOnCompletion : Prop :=
  ∀ s t : State, step s = .next t →
    t.records = s.records ∨
    ∃ rec b u, t.records = s.records ++ [rec] ∧ t.rx.recOut = some rec ∧ fetch s = .run (.rxByte b) u ∧
      s.rx.state = .capture ∧ s.rx.capidx = lastCapIdx s.cfg.rx.nValues

/-! ### Reset, steps, whole-machine rules -/

/-- O46. R65: every element after reset, for every build; with R41, R54, R57 and R59 to R63 for the outputs. -/
def Obligations.ResetValues : Prop :=
  ∀ c : Config, let s := State.resetOf c
    s.cfg = c ∧ s.tx.phase = .idle ∧ s.tx.line = true ∧ s.tx.shreg = 0 ∧ s.tx.bitcnt = 0 ∧ s.tx.timer = 0 ∧
    (∀ k < 20, s.tx.q[k]? = some 0) ∧ s.tx.qlen = 0 ∧ s.tx.qi = 0 ∧ s.tx.err = false ∧
    s.rx.state = .scan ∧ s.rx.prev2 = 0x100 ∧ s.rx.prev1 = 0x100 ∧ s.rx.capidx = 0 ∧
    (∀ k < 17, s.rx.capbuf[k]? = some 0) ∧ s.rx.recOut = none ∧ s.tx.ready = true ∧
    txstat s.tx = 0x02 ∧ rxstat s.rx = 0x00 ∧ rxcap s.rx = 0x00 ∧ rxhist s.rx = 0x0000

/-- O47. R212, R205, R206, R122, R53 (how the pins are presented: log 4, log 5): one boundary of TXU. Reset wins and gives the
reset values; otherwise the tick runs; a word offered or held while READY = 0 after it is not taken, and a held one stays. -/
def Obligations.TxBoundaryOrder : Prop :=
  ∀ (s : State) (rest : List TxInput) (w : CmdWord), s.nextAgent = .txu →
    (∀ presented, s.txIn = .reset presented :: rest →
      step s = .next { s with sched := s.sched.tail, txIn := rest, tx := Txu.reset }) ∧
    (s.txIn = [] → step s = .next { s with sched := s.sched.tail, tx := txTick s.cfg.tx s.tx }) ∧
    (s.txIn = .idle :: rest →
      step s = .next { s with sched := s.sched.tail, txIn := rest, tx := txTick s.cfg.tx s.tx }) ∧
    (s.txIn = .offer w :: rest → (txTick s.cfg.tx s.tx).busy = true →
      step s = .next { s with sched := s.sched.tail, txIn := rest, tx := txTick s.cfg.tx s.tx }) ∧
    (s.txIn = .hold w :: rest → (txTick s.cfg.tx s.tx).busy = true →
      step s = .next { s with sched := s.sched.tail, tx := txTick s.cfg.tx s.tx })

/-- O48. R53, R122, R129 (log 4, log 5): the step at which READY = 1 after the tick and a word is presented runs what the word
decodes to, on the state after the tick with the word taken. -/
def Obligations.StepRunsAcceptedCommand : Prop :=
  ∀ (s : State) (w : CmdWord) (rest : List TxInput) (i : Instr), s.nextAgent = .txu →
    (s.txIn = .hold w :: rest ∨ s.txIn = .offer w :: rest) → (txTick s.cfg.tx s.tx).ready = true →
    decode s.cfg.tx.nValues (.cmd w) = .ok i →
    step s = exec i { s with sched := s.sched.tail, txIn := rest, tx := txTick s.cfg.tx s.tx }

/-- O49. R55, R57, R150, R212 (log 4): one occasion of RXU. Reset wins and gives the reset values; a token is always taken and
runs what it decodes to; with none, nothing changes. -/
def Obligations.RxStepRunsToken : Prop :=
  ∀ (s : State) (rest : List RxInput) (t : Token), s.nextAgent = .rxu →
    (s.rxIn = .reset :: rest → step s = .next { s with sched := s.sched.tail, rxIn := rest, rx := Rxu.reset }) ∧
    (s.rxIn = .token t :: rest →
      ∃ i, decode s.cfg.rx.nValues (.tok t) = .ok i ∧
        step s = exec i { s with sched := s.sched.tail, rxIn := rest }) ∧
    (s.rxIn = [] → step s = .next { s with sched := s.sched.tail })

/-- O50. How a word placed from outside runs (log 16): the next step is exec of the operation, on the very same state. -/
def Obligations.PlacedWordRuns : Prop :=
  ∀ (s : State) (i : Instr), i.wellFormed s.cfg.tx.nValues = true → (i.agent = .txu → s.tx.ready = true) →
    step (placeWord (encode s.cfg.tx.nValues i) s) = exec i s

/-- O51. R65, R208: the invariant holds after reset, for every build. -/
def Obligations.ResetMeetsInv : Prop := ∀ c : Config, (State.resetOf c).Inv

/-- O52. R32, R35 to R39, R42 to R44, R154, R155, R168: every step keeps the invariant, from every state that meets it. -/
def Obligations.StepKeepsInv : Prop := ∀ s t : State, s.Inv → step s = .next t → t.Inv

/-- O53. R124: the line invariant at every boundary, and that the level changes only where a bit, a gap or a symbol starts
(or where rst_tx sets it, R206). -/
def Obligations.LineInvariant : Prop :=
  ∀ s t : State, s.Inv → step s = .next t →
    t.tx.LineOk ∧
    (t.tx.line ≠ s.tx.line → s.TxResetNow ∨
      (t.tx.phase = .bit ∧ t.tx.timer.toNat = s.cfg.tx.holdUs) ∨
      (t.tx.phase = .gap ∧ t.tx.timer.toNat = s.cfg.tx.gapUs))

/-- O54. R30: no step changes the build. -/
def Obligations.StepKeepsConfig : Prop := ∀ s t : State, step s = .next t → t.cfg = s.cfg

/-- O55. R40, R187, R192: TX_ERR is sticky, set by an accepted reserved command only, cleared by rst_tx only, and read by
nothing. -/
def Obligations.TxErrSticky : Prop :=
  ∀ s t : State, step s = .next t →
    (s.TxResetNow → t.tx.err = false) ∧
    (¬ s.TxResetNow →
      (t.tx.err = true ↔ s.tx.err = true ∨ ∃ op u, fetch s = .run (.reservedCmd op) u)) ∧
    ∀ b : Bool, ∃ u, step { s with tx := { s.tx with err := b } } = .next u ∧
      { u with tx := { u.tx with err := t.tx.err } } = t

/-- O56. R209, R79, R196: a step of one unit changes nothing of the other. -/
def Obligations.UnitsDoNotTouchEachOther : Prop :=
  ∀ s t : State, step s = .next t →
    (s.nextAgent = .txu → t.rx = s.rx ∧ t.records = s.records ∧ t.rxIn = s.rxIn) ∧
    (s.nextAgent = .rxu → t.tx = s.tx ∧ t.txIn = s.txIn ∧ t.free = s.free)

/-- O57. R23, R79, R190, R196: the interleaving does not matter. What a schedule leaves TXU with is what TXU's own steps alone
leave it with, and the same of RXU. -/
def Obligations.InterleavingDoesNotMatter : Prop :=
  ∀ (s t : State) (σ : List Agent), run σ.length { s with sched := σ } = .next t →
    (∃ u, run (σ.count .txu) { s with sched := List.replicate (σ.count .txu) .txu } = .next u ∧
      t.tx = u.tx ∧ t.txIn = u.txIn ∧ t.free = u.free) ∧
    (∃ u, run (σ.count .rxu) { s with sched := List.replicate (σ.count .rxu) .rxu } = .next u ∧
      t.rx = u.rx ∧ t.records = u.records ∧ t.rxIn = u.rxIn)

/-! ### Status registers and timing -/

/-- O58. R59, R60: the fields of TXSTAT and TXCFG, reserved bits 0. -/
def Obligations.TxStatusRegisters : Prop :=
  (∀ s : State, ∃ v, readTxReg s 0 = some v ∧
    v.getLsbD 0 = s.tx.busy ∧ (v.getLsbD 0 = true ↔ s.tx.phase ≠ .idle) ∧ v.getLsbD 1 = s.tx.line ∧
    v.getLsbD 2 = s.tx.err ∧ (v.getLsbD 3 = true ↔ s.tx.phase = .gap) ∧ v.extractLsb' 4 4 = 0) ∧
  (∀ s : State, ∃ v, readTxReg s 1 = some v ∧
    (v.getLsbD 0 = true ↔ s.cfg.tx.kStop = .two) ∧ (v.getLsbD 1 = true ↔ s.cfg.tx.nValues = .four) ∧
    (v.getLsbD 2 = true ↔ s.cfg.tx.compUs = .ten) ∧ v.extractLsb' 3 5 = 0)

/-- O59. R61 to R64: the fields of RXSTAT, RXCAP, RXHIST and RXCFG, reserved bits 0. -/
def Obligations.RxStatusRegisters : Prop :=
  ∀ s : State,
    (∃ v, readRxReg s 0 = some v ∧
      v.extractLsb' 0 2 = (match s.rx.state with | .scan => 0 | .capture => 1 | .stopped => 2) ∧
      (v.getLsbD 2 = true ↔ s.rx.prev1 ≠ 0x100) ∧ (v.getLsbD 3 = true ↔ s.rx.prev2 ≠ 0x100) ∧
      v.extractLsb' 4 12 = 0) ∧
    (∃ v, readRxReg s 1 = some v ∧ v.extractLsb' 0 5 = s.rx.capidx ∧ v.extractLsb' 5 11 = 0) ∧
    (∃ v, readRxReg s 2 = some v ∧ v.extractLsb' 0 8 = s.rx.prev1.extractLsb' 0 8 ∧
      v.extractLsb' 8 8 = s.rx.prev2.extractLsb' 0 8 ∧ (s.rx.prev1 = 0x100 → v.extractLsb' 0 8 = 0) ∧
      (s.rx.prev2 = 0x100 → v.extractLsb' 8 8 = 0)) ∧
    (∃ v, readRxReg s 3 = some v ∧ (v.getLsbD 0 = true ↔ s.cfg.rx.nValues = .four) ∧ v.extractLsb' 1 15 = 0)

/-- O60. R214: timing_ok(H) holds exactly for 99 ≤ H ≤ 109. -/
def Obligations.TimingTolerance : Prop :=
  ∀ c : TxConfig, c.TimingOk ↔ 99 ≤ c.holdUs ∧ c.holdUs ≤ 109
end

