-- ==== Sys2Proof/Laws/Encoding.lean ====
section
/-! SUPPORT. The small facts of the encodings: lengths, bytes by index, and the decoder on a word of the port's width. -/

namespace Sys2Proof

@[simp] theorem length_le4 (v : U32) : (le4 v).length = 4 := rfl

theorem count_eq (n : NValues) : n.count = 3 ∨ n.count = 4 := by cases n <;> simp [NValues.count]

theorem length_flatMap_le4 (values : List U32) : (values.flatMap le4).length = 4 * values.length := by
  induction values with
  | nil => rfl
  | cons v vs ih => simp [ih]; omega

@[simp] theorem length_payloadBytes (status : Byte) (values : List U32) :
    (payloadBytes status values).length = 1 + 4 * values.length := by
  simp [payloadBytes]; omega

@[simp] theorem length_frameBytes (status : Byte) (values : List U32) :
    (frameBytes status values).length = 4 + 4 * values.length := by
  simp [frameBytes]; omega

@[simp] theorem length_bytesOfNat (count w : Nat) : (bytesOfNat count w).length = count := by
  induction count generalizing w with
  | zero => rfl
  | succ k ih => simp [bytesOfNat, ih]

/-- Byte k of a number is its bits 8k+7 to 8k. -/
theorem bytesOfNat_get (count w k : Nat) (hk : k < count) :
    (bytesOfNat count w)[k]? = some (BitVec.ofNat 8 (w / 256 ^ k)) := by
  induction count generalizing w k with
  | zero => omega
  | succ c ih =>
    cases k with
    | zero => simp [bytesOfNat]
    | succ k =>
      simp only [bytesOfNat, List.getElem?_cons_succ]
      rw [ih _ _ (by omega), Nat.div_div_eq_div_mul, Nat.pow_succ, Nat.mul_comm]

theorem byteAt_eq (w : CmdWord) (k : Nat) (b : Byte) (h : w[k]? = some b) : byteAt w k = b := by
  simp [byteAt, h]

/-- On a word of the port's width the decoder answers, whatever the word (R108). -/
theorem decodeCmd_of_length (n : NValues) (w : CmdWord) (h : w.length = n.cmdBytes) :
    decodeCmd n w = .ok (decodeOp n w) := by
  simp [decodeCmd, h]

/-- A word the command decoder accepts has the port's width, and reads as `decodeOp` says (R108, R109). -/
theorem decodeCmd_ok (n : NValues) (w : CmdWord) (i : Instr) (h : decodeCmd n w = .ok i) :
    w.length = n.cmdBytes ∧ decodeOp n w = i := by
  unfold decodeCmd at h
  split at h
  · exact ⟨by assumption, by simpa using h⟩
  · cases h

/-- Which operation a command word decodes to is settled by its opcode byte (R101). -/
theorem decodeOp_cases (n : NValues) (w : CmdWord) :
    (byteAt w 0 = opTxByte ∧ decodeOp n w = .txByte (byteAt w 1)) ∨
    (byteAt w 0 = opTxU32 ∧ decodeOp n w = .txU32 (u32At w 1)) ∨
    (byteAt w 0 = opTxCycle ∧
      decodeOp n w = .txCycle (byteAt w 1) ((List.range n.count).map fun i => u32At w (4 * i + 2))) ∨
    ((byteAt w 0 ≠ opTxByte ∧ byteAt w 0 ≠ opTxU32 ∧ byteAt w 0 ≠ opTxCycle) ∧
      decodeOp n w = .reservedCmd (byteAt w 0)) := by
  unfold decodeOp
  split
  · exact .inl ⟨by assumption, rfl⟩
  split
  · exact .inr (.inl ⟨by assumption, rfl⟩)
  split
  · exact .inr (.inr (.inl ⟨by assumption, rfl⟩))
  · exact .inr (.inr (.inr ⟨⟨by assumption, by assumption, by assumption⟩, rfl⟩))

/-- What a token decodes to is well formed and is RXU's (R107). -/
theorem decodeTok_agent (t : Token) : (decodeTok t).agent = .rxu := by
  unfold decodeTok
  split <;> rfl

/-- What a command word decodes to is TXU's. -/
theorem decodeOp_agent (n : NValues) (w : CmdWord) : (decodeOp n w).agent = .txu := by
  obtain ⟨-, h⟩ | ⟨-, h⟩ | ⟨-, h⟩ | ⟨-, h⟩ := decodeOp_cases n w <;> rw [h] <;> rfl

end Sys2Proof
end

