-- ==== Sys2Proof/Laws/State.lean ====
section
/-! SUPPORT. One lemma for each field and each update of the state, so that no later proof unfolds an update. -/

namespace Sys2Proof.Machine

/-! ### TXU -/

@[simp] theorem loadSymbol_phase (c : TxConfig) (d : Byte) (t : Txu) : (loadSymbol c d t).phase = .bit := rfl
@[simp] theorem loadSymbol_line (c : TxConfig) (d : Byte) (t : Txu) : (loadSymbol c d t).line = false := rfl
@[simp] theorem loadSymbol_shreg (c : TxConfig) (d : Byte) (t : Txu) :
    (loadSymbol c d t).shreg = symbol c.kStop d := rfl
@[simp] theorem loadSymbol_bitcnt (c : TxConfig) (d : Byte) (t : Txu) :
    (loadSymbol c d t).bitcnt = BitVec.ofNat 4 (symbolLen c.kStop) := rfl
@[simp] theorem loadSymbol_timer (c : TxConfig) (d : Byte) (t : Txu) : (loadSymbol c d t).timer = holdTicks c := rfl
@[simp] theorem loadSymbol_q (c : TxConfig) (d : Byte) (t : Txu) : (loadSymbol c d t).q = t.q := rfl
@[simp] theorem loadSymbol_qlen (c : TxConfig) (d : Byte) (t : Txu) : (loadSymbol c d t).qlen = t.qlen := rfl
@[simp] theorem loadSymbol_qi (c : TxConfig) (d : Byte) (t : Txu) : (loadSymbol c d t).qi = t.qi := rfl
@[simp] theorem loadSymbol_err (c : TxConfig) (d : Byte) (t : Txu) : (loadSymbol c d t).err = t.err := rfl

@[simp] theorem Txu.complete_phase (t : Txu) : (t.complete).phase = .idle := rfl
@[simp] theorem Txu.complete_line (t : Txu) : (t.complete).line = t.line := rfl
@[simp] theorem Txu.complete_shreg (t : Txu) : (t.complete).shreg = t.shreg := rfl
@[simp] theorem Txu.complete_bitcnt (t : Txu) : (t.complete).bitcnt = t.bitcnt := rfl
@[simp] theorem Txu.complete_timer (t : Txu) : (t.complete).timer = 0#16 := rfl
@[simp] theorem Txu.complete_q (t : Txu) : (t.complete).q = t.q := rfl
@[simp] theorem Txu.complete_qlen (t : Txu) : (t.complete).qlen = t.qlen := rfl
@[simp] theorem Txu.complete_qi (t : Txu) : (t.complete).qi = t.qi := rfl
@[simp] theorem Txu.complete_err (t : Txu) : (t.complete).err = t.err := rfl

@[simp] theorem enterGap_phase (c : TxConfig) (t : Txu) : (enterGap c t).phase = .gap := rfl
@[simp] theorem enterGap_line (c : TxConfig) (t : Txu) : (enterGap c t).line = t.line := rfl
@[simp] theorem enterGap_shreg (c : TxConfig) (t : Txu) : (enterGap c t).shreg = t.shreg := rfl
@[simp] theorem enterGap_bitcnt (c : TxConfig) (t : Txu) : (enterGap c t).bitcnt = t.bitcnt := rfl
@[simp] theorem enterGap_timer (c : TxConfig) (t : Txu) : (enterGap c t).timer = gapTicks c := rfl
@[simp] theorem enterGap_q (c : TxConfig) (t : Txu) : (enterGap c t).q = t.q := rfl
@[simp] theorem enterGap_qlen (c : TxConfig) (t : Txu) : (enterGap c t).qlen = t.qlen := rfl
@[simp] theorem enterGap_qi (c : TxConfig) (t : Txu) : (enterGap c t).qi = t.qi := rfl
@[simp] theorem enterGap_err (c : TxConfig) (t : Txu) : (enterGap c t).err = t.err := rfl

/-! ### RXU -/

@[simp] theorem Rxu.enterCapture_state (r : Rxu) : (r.enterCapture).state = .capture := rfl
@[simp] theorem Rxu.enterCapture_prev2 (r : Rxu) : (r.enterCapture).prev2 = r.prev2 := rfl
@[simp] theorem Rxu.enterCapture_prev1 (r : Rxu) : (r.enterCapture).prev1 = r.prev1 := rfl
@[simp] theorem Rxu.enterCapture_capidx (r : Rxu) : (r.enterCapture).capidx = 0#5 := rfl
@[simp] theorem Rxu.enterCapture_capbuf (r : Rxu) : (r.enterCapture).capbuf = r.capbuf := rfl
@[simp] theorem Rxu.enterCapture_recOut (r : Rxu) : (r.enterCapture).recOut = r.recOut := rfl

@[simp] theorem Rxu.shiftHistory_state (b : Byte) (r : Rxu) : (r.shiftHistory b).state = r.state := rfl
@[simp] theorem Rxu.shiftHistory_prev2 (b : Byte) (r : Rxu) : (r.shiftHistory b).prev2 = r.prev1 := rfl
@[simp] theorem Rxu.shiftHistory_prev1 (b : Byte) (r : Rxu) : (r.shiftHistory b).prev1 = slotOf b := rfl
@[simp] theorem Rxu.shiftHistory_capidx (b : Byte) (r : Rxu) : (r.shiftHistory b).capidx = r.capidx := rfl
@[simp] theorem Rxu.shiftHistory_capbuf (b : Byte) (r : Rxu) : (r.shiftHistory b).capbuf = r.capbuf := rfl
@[simp] theorem Rxu.shiftHistory_recOut (b : Byte) (r : Rxu) : (r.shiftHistory b).recOut = r.recOut := rfl

@[simp] theorem Rxu.resumeScan_state (r : Rxu) : (r.resumeScan).state = .scan := rfl
@[simp] theorem Rxu.resumeScan_prev2 (r : Rxu) : (r.resumeScan).prev2 = emptySlot := rfl
@[simp] theorem Rxu.resumeScan_prev1 (r : Rxu) : (r.resumeScan).prev1 = emptySlot := rfl
@[simp] theorem Rxu.resumeScan_capidx (r : Rxu) : (r.resumeScan).capidx = 0#5 := rfl
@[simp] theorem Rxu.resumeScan_capbuf (r : Rxu) : (r.resumeScan).capbuf = r.capbuf := rfl
@[simp] theorem Rxu.resumeScan_recOut (r : Rxu) : (r.resumeScan).recOut = r.recOut := rfl

@[simp] theorem Rxu.store_state (b : Byte) (r : Rxu) : (r.store b).state = r.state := rfl
@[simp] theorem Rxu.store_prev2 (b : Byte) (r : Rxu) : (r.store b).prev2 = r.prev2 := rfl
@[simp] theorem Rxu.store_prev1 (b : Byte) (r : Rxu) : (r.store b).prev1 = r.prev1 := rfl
@[simp] theorem Rxu.store_capidx (b : Byte) (r : Rxu) : (r.store b).capidx = r.capidx := rfl
@[simp] theorem Rxu.store_capbuf (b : Byte) (r : Rxu) :
    (r.store b).capbuf = r.capbuf.setIfInBounds r.capidx.toNat b := rfl
@[simp] theorem Rxu.store_recOut (b : Byte) (r : Rxu) : (r.store b).recOut = r.recOut := rfl

/-! ### The whole state -/

@[simp] theorem State.tick_cfg (s : State) : (s.tick).cfg = s.cfg := rfl
@[simp] theorem State.tick_tx (s : State) : (s.tick).tx = txTick s.cfg.tx s.tx := rfl
@[simp] theorem State.tick_rx (s : State) : (s.tick).rx = s.rx := rfl
@[simp] theorem State.tick_records (s : State) : (s.tick).records = s.records := rfl
@[simp] theorem State.tick_txIn (s : State) : (s.tick).txIn = s.txIn := rfl
@[simp] theorem State.tick_rxIn (s : State) : (s.tick).rxIn = s.rxIn := rfl
@[simp] theorem State.tick_sched (s : State) : (s.tick).sched = s.sched := rfl
@[simp] theorem State.tick_free (s : State) : (s.tick).free = s.free := rfl

@[simp] theorem State.resetTx_cfg (s : State) : (s.resetTx).cfg = s.cfg := rfl
@[simp] theorem State.resetTx_tx (s : State) : (s.resetTx).tx = Txu.reset := rfl
@[simp] theorem State.resetTx_rx (s : State) : (s.resetTx).rx = s.rx := rfl
@[simp] theorem State.resetTx_records (s : State) : (s.resetTx).records = s.records := rfl
@[simp] theorem State.resetTx_txIn (s : State) : (s.resetTx).txIn = s.txIn := rfl
@[simp] theorem State.resetTx_rxIn (s : State) : (s.resetTx).rxIn = s.rxIn := rfl
@[simp] theorem State.resetTx_sched (s : State) : (s.resetTx).sched = s.sched := rfl
@[simp] theorem State.resetTx_free (s : State) : (s.resetTx).free = s.free := rfl

@[simp] theorem State.resetRx_cfg (s : State) : (s.resetRx).cfg = s.cfg := rfl
@[simp] theorem State.resetRx_tx (s : State) : (s.resetRx).tx = s.tx := rfl
@[simp] theorem State.resetRx_rx (s : State) : (s.resetRx).rx = Rxu.reset := rfl
@[simp] theorem State.resetRx_records (s : State) : (s.resetRx).records = s.records := rfl
@[simp] theorem State.resetRx_txIn (s : State) : (s.resetRx).txIn = s.txIn := rfl
@[simp] theorem State.resetRx_rxIn (s : State) : (s.resetRx).rxIn = s.rxIn := rfl
@[simp] theorem State.resetRx_sched (s : State) : (s.resetRx).sched = s.sched := rfl
@[simp] theorem State.resetRx_free (s : State) : (s.resetRx).free = s.free := rfl

@[simp] theorem State.popSched_cfg (s : State) : (s.popSched).cfg = s.cfg := rfl
@[simp] theorem State.popSched_tx (s : State) : (s.popSched).tx = s.tx := rfl
@[simp] theorem State.popSched_rx (s : State) : (s.popSched).rx = s.rx := rfl
@[simp] theorem State.popSched_records (s : State) : (s.popSched).records = s.records := rfl
@[simp] theorem State.popSched_txIn (s : State) : (s.popSched).txIn = s.txIn := rfl
@[simp] theorem State.popSched_rxIn (s : State) : (s.popSched).rxIn = s.rxIn := rfl
@[simp] theorem State.popSched_sched (s : State) : (s.popSched).sched = s.sched.tail := rfl
@[simp] theorem State.popSched_free (s : State) : (s.popSched).free = s.free := rfl

@[simp] theorem State.dropRecord_cfg (s : State) : (s.dropRecord).cfg = s.cfg := rfl
@[simp] theorem State.dropRecord_tx (s : State) : (s.dropRecord).tx = s.tx := rfl
@[simp] theorem State.dropRecord_rx (s : State) : (s.dropRecord).rx = { s.rx with recOut := none } := rfl
@[simp] theorem State.dropRecord_records (s : State) : (s.dropRecord).records = s.records := rfl
@[simp] theorem State.dropRecord_txIn (s : State) : (s.dropRecord).txIn = s.txIn := rfl
@[simp] theorem State.dropRecord_rxIn (s : State) : (s.dropRecord).rxIn = s.rxIn := rfl
@[simp] theorem State.dropRecord_sched (s : State) : (s.dropRecord).sched = s.sched := rfl
@[simp] theorem State.dropRecord_free (s : State) : (s.dropRecord).free = s.free := rfl

@[simp] theorem emit_cfg (rec : Record) (s : State) : (emit rec s).cfg = s.cfg := rfl
@[simp] theorem emit_tx (rec : Record) (s : State) : (emit rec s).tx = s.tx := rfl
@[simp] theorem emit_rx (rec : Record) (s : State) : (emit rec s).rx = { s.rx with recOut := some rec } := rfl
@[simp] theorem emit_records (rec : Record) (s : State) : (emit rec s).records = s.records ++ [rec] := rfl
@[simp] theorem emit_txIn (rec : Record) (s : State) : (emit rec s).txIn = s.txIn := rfl
@[simp] theorem emit_rxIn (rec : Record) (s : State) : (emit rec s).rxIn = s.rxIn := rfl
@[simp] theorem emit_sched (rec : Record) (s : State) : (emit rec s).sched = s.sched := rfl
@[simp] theorem emit_free (rec : Record) (s : State) : (emit rec s).free = s.free := rfl

@[simp] theorem endOfStream_cfg (s : State) : (endOfStream s).cfg = s.cfg := rfl
@[simp] theorem endOfStream_tx (s : State) : (endOfStream s).tx = s.tx := rfl
@[simp] theorem endOfStream_rx (s : State) :
    (endOfStream s).rx = { s.rx with state := .stopped, capidx := 0#5 } := rfl
@[simp] theorem endOfStream_records (s : State) : (endOfStream s).records = s.records := rfl
@[simp] theorem endOfStream_txIn (s : State) : (endOfStream s).txIn = s.txIn := rfl
@[simp] theorem endOfStream_rxIn (s : State) : (endOfStream s).rxIn = s.rxIn := rfl
@[simp] theorem endOfStream_sched (s : State) : (endOfStream s).sched = s.sched := rfl
@[simp] theorem endOfStream_free (s : State) : (endOfStream s).free = s.free := rfl

@[simp] theorem raise_cfg (e : Event) (s : State) : (raise e s).cfg = s.cfg := by cases e; rfl
@[simp] theorem raise_rx (e : Event) (s : State) : (raise e s).rx = s.rx := by cases e; rfl
@[simp] theorem raise_records (e : Event) (s : State) : (raise e s).records = s.records := by cases e; rfl
@[simp] theorem raise_txIn (e : Event) (s : State) : (raise e s).txIn = s.txIn := by cases e; rfl
@[simp] theorem raise_rxIn (e : Event) (s : State) : (raise e s).rxIn = s.rxIn := by cases e; rfl
@[simp] theorem raise_sched (e : Event) (s : State) : (raise e s).sched = s.sched := by cases e; rfl
@[simp] theorem raise_free (e : Event) (s : State) : (raise e s).free = s.free := by cases e; rfl

@[simp] theorem State.withTokens_cfg (is : List Instr) (s : State) : (s.withTokens is).cfg = s.cfg := rfl
@[simp] theorem State.withTokens_tx (is : List Instr) (s : State) : (s.withTokens is).tx = s.tx := rfl
@[simp] theorem State.withTokens_rx (is : List Instr) (s : State) : (s.withTokens is).rx = s.rx := rfl
@[simp] theorem State.withTokens_records (is : List Instr) (s : State) : (s.withTokens is).records = s.records := rfl
@[simp] theorem State.withTokens_txIn (is : List Instr) (s : State) : (s.withTokens is).txIn = s.txIn := rfl
@[simp] theorem State.withTokens_rxIn (is : List Instr) (s : State) :
    (s.withTokens is).rxIn = tokenInputs is ++ s.rxIn := rfl
@[simp] theorem State.withTokens_sched (is : List Instr) (s : State) :
    (s.withTokens is).sched = List.replicate (tokenInputs is).length .rxu ++ s.sched := rfl
@[simp] theorem State.withTokens_free (is : List Instr) (s : State) : (s.withTokens is).free = s.free := rfl

@[simp] theorem State.withCaller_cfg (ls : List CallerLine) (s : State) : (s.withCaller ls).cfg = s.cfg := rfl
@[simp] theorem State.withCaller_tx (ls : List CallerLine) (s : State) : (s.withCaller ls).tx = s.tx := rfl
@[simp] theorem State.withCaller_rx (ls : List CallerLine) (s : State) : (s.withCaller ls).rx = s.rx := rfl
@[simp] theorem State.withCaller_records (ls : List CallerLine) (s : State) :
    (s.withCaller ls).records = s.records := rfl
@[simp] theorem State.withCaller_txIn (ls : List CallerLine) (s : State) :
    (s.withCaller ls).txIn = callerInputs s.cfg.tx.nValues ls := rfl
@[simp] theorem State.withCaller_rxIn (ls : List CallerLine) (s : State) : (s.withCaller ls).rxIn = s.rxIn := rfl
@[simp] theorem State.withCaller_sched (ls : List CallerLine) (s : State) : (s.withCaller ls).sched = s.sched := rfl
@[simp] theorem State.withCaller_free (ls : List CallerLine) (s : State) : (s.withCaller ls).free = s.free := rfl

/-- The one event sets TX_ERR and leaves every other register of TXU (R187). -/
@[simp] theorem raise_tx (e : Event) (s : State) : (raise e s).tx = { s.tx with err := true } := by
  cases e; rfl

end Sys2Proof.Machine
end

