-- ==== Sys2Proof/Laws/Ops.lean ====
section
/-! SUPPORT. One lemma for each shared operation that says what it does, for later proofs to cite. -/

namespace Sys2Proof.Machine

/-! ### READY and the timer constants -/

@[simp] theorem ready_iff (t : Txu) : t.ready = true ↔ t.phase = .idle := by
  simp [Txu.ready, Txu.busy]

@[simp] theorem busy_iff (t : Txu) : t.busy = true ↔ t.phase ≠ .idle := by
  simp [Txu.busy]

theorem bitPeriodUs_eq : bitPeriodUs = 104 := rfl

theorem compUs_le (k : CompUs) : k.us ≤ 10 := by cases k <;> simp [CompUs.us]

/-- H is never 0 (93_implementation_defined.md item 20). -/
theorem holdUs_pos (c : TxConfig) : 0 < c.holdUs := by
  have := compUs_le c.compUs
  simp only [TxConfig.holdUs, TxConfig.delayUs, bitPeriodUs_eq]
  omega

theorem holdUs_le (c : TxConfig) : c.holdUs ≤ 65535 := c.holdFits

theorem toNat_holdTicks (c : TxConfig) : (holdTicks c).toNat = c.holdUs := by
  have := holdUs_le c
  simp only [holdTicks, BitVec.toNat_ofNat]
  omega

theorem toNat_gapTicks (c : TxConfig) : (gapTicks c).toNat = c.gapUs := by
  have := c.gapFits
  simp only [gapTicks, BitVec.toNat_ofNat]
  omega

theorem symbolLen_bounds (k : StopBits) : 10 ≤ symbolLen k ∧ symbolLen k ≤ 11 := by
  cases k <;> simp [symbolLen, StopBits.count]

/-! ### The bit engine -/

theorem txTick_idle (c : TxConfig) (t : Txu) (h : t.phase = .idle) : txTick c t = t := by
  simp [txTick, h]

/-- A bit or gap that is not over only counts (R123). -/
theorem txTick_wait (c : TxConfig) (t : Txu) (h : t.phase ≠ .idle) (ht : t.timer - 1#16 ≠ 0#16) :
    txTick c t = { t with timer := t.timer - 1#16 } := by
  unfold txTick
  split
  · contradiction
  · exact if_pos ht
  · exact if_pos ht

/-- The end of a gap (R123, R127). -/
theorem txTick_gap_over (c : TxConfig) (t : Txu) (h : t.phase = .gap) (ht : t.timer - 1#16 = 0#16) :
    txTick c t = loadSymbol c (t.queueByte t.qi) t := by
  simp [txTick, h, ht, loadSymbol, Txu.queueByte]

/-- The end of a bit that is not its symbol's last (R123). -/
theorem txTick_bit_over (c : TxConfig) (t : Txu) (h : t.phase = .bit) (ht : t.timer - 1#16 = 0#16)
    (hb : t.bitcnt - 1#4 ≠ 0#4) :
    txTick c t = { t with
      shreg := t.shreg >>> 1, bitcnt := t.bitcnt - 1#4, line := (t.shreg >>> 1).getLsbD 0, timer := holdTicks c } := by
  simp [txTick, h, ht, nextBit, hb]

/-- The end of a command's last symbol (R123, R126, R128). -/
theorem txTick_command_over (c : TxConfig) (t : Txu) (h : t.phase = .bit) (ht : t.timer - 1#16 = 0#16)
    (hb : t.bitcnt - 1#4 = 0#4) (hq : t.qi + 1#5 = t.qlen) :
    txTick c t = { t with
      phase := .idle, timer := 0#16, shreg := t.shreg >>> 1, bitcnt := 0#4, qi := t.qi + 1#5, line := true } := by
  simp [txTick, h, ht, nextBit, hb, endOfSymbol, hq, Txu.complete]

/-- The end of a symbol that a gap follows (R126, R127). -/
theorem txTick_enter_gap (c : TxConfig) (t : Txu) (h : t.phase = .bit) (ht : t.timer - 1#16 = 0#16)
    (hb : t.bitcnt - 1#4 = 0#4) (hq : t.qi + 1#5 ≠ t.qlen) (hg : 0 < c.gapUs) :
    txTick c t = { t with
      phase := .gap, timer := gapTicks c, shreg := t.shreg >>> 1, bitcnt := 0#4, qi := t.qi + 1#5, line := true } := by
  simp [txTick, h, ht, nextBit, hb, endOfSymbol, hq, hg, enterGap]

/-- The end of a symbol that the next one follows at once (R125, R126). -/
theorem txTick_next_symbol (c : TxConfig) (t : Txu) (h : t.phase = .bit) (ht : t.timer - 1#16 = 0#16)
    (hb : t.bitcnt - 1#4 = 0#4) (hq : t.qi + 1#5 ≠ t.qlen) (hg : c.gapUs = 0) :
    txTick c t = loadSymbol c (t.queueByte (t.qi + 1#5)) { t with qi := t.qi + 1#5 } := by
  simp [txTick, h, ht, nextBit, hb, endOfSymbol, hq, hg, loadSymbol, Txu.queueByte]

/-- A tick leaves the queue, its length and TX_ERR alone. -/
theorem txTick_frame (c : TxConfig) (t : Txu) :
    (txTick c t).q = t.q ∧ (txTick c t).qlen = t.qlen ∧ (txTick c t).err = t.err := by
  unfold txTick
  split
  · simp
  · simp only []
    split <;> simp
  · simp only [nextBit, endOfSymbol]
    split
    · simp
    split
    · simp
    split
    · simp
    split <;> simp

/-! ### The queue -/

/-- TX_Q inside a command holds its bytes (R39). -/
theorem fillQueue_get (bytes : List Byte) (free k : Nat) (hk : k < bytes.length) (h20 : k < 20) :
    (fillQueue bytes free)[k] = bytes[k] := by
  simp [fillQueue, hk]

theorem queueByte_of_lt (t : Txu) (i : BitVec 5) (h : i.toNat < 20) : t.queueByte i = t.q[i.toNat] := by
  simp [Txu.queueByte, h]

/-- start(Q) of a command's bytes (R129). -/
theorem start_cons (b : Byte) (rest : List Byte) (s : State) :
    start (b :: rest) s =
      { s with
        tx := loadSymbol s.cfg.tx b
          { s.tx with q := fillQueue (b :: rest) s.free, qlen := BitVec.ofNat 5 (rest.length + 1), qi := 0#5 }
        free := s.free + 20 } := rfl

/-! ### The handshake -/

theorem acceptIfReady_ready (f : State → State) (s : State) (h : s.tx.phase = .idle) :
    acceptIfReady f s = .next (f s) := by
  simp [acceptIfReady, h]

theorem acceptIfReady_busy (f : State → State) (s : State) (h : s.tx.phase ≠ .idle) :
    acceptIfReady f s = .next s := by
  simp [acceptIfReady, h]

/-- The handshake always answers a next state: the command's effect, or nothing (R53). -/
theorem acceptIfReady_next (f : State → State) (s t : State) (h : acceptIfReady f s = .next t) :
    (s.tx.phase = .idle ∧ t = f s) ∨ (s.tx.phase ≠ .idle ∧ t = s) := by
  by_cases hp : s.tx.phase = .idle
  · rw [acceptIfReady_ready f s hp] at h
    exact .inl ⟨hp, by simpa using h.symm⟩
  · rw [acceptIfReady_busy f s hp] at h
    exact .inr ⟨hp, by simpa using h.symm⟩

/-! ### The receiver -/

theorem slotOf_pre0 : slotOf pre0 = 0x0FF#9 := by decide
theorem slotOf_pre1 : slotOf pre1 = 0x0FF#9 := by decide

@[simp] theorem preambleMatches_iff (r : Rxu) (b : Byte) :
    preambleMatches r b = true ↔ r.prev2 = 0x0FF#9 ∧ r.prev1 = 0x0FF#9 ∧ b = 0xFE#8 := by
  simp [preambleMatches, slotOf_pre0, slotOf_pre1, pre2, and_assoc]

/-- A byte's slot is legal and is not EMPTY (R43). -/
theorem slotOf_toNat (b : Byte) : (slotOf b).toNat = b.toNat := by
  simp only [slotOf, BitVec.toNat_setWidth]
  omega

theorem slotOf_ne_empty (b : Byte) : slotOf b ≠ emptySlot := by
  intro h
  have := congrArg BitVec.toNat h
  rw [slotOf_toNat] at this
  have hb := b.isLt
  simp [emptySlot] at this
  omega

theorem slotOf_inj (a b : Byte) : slotOf a = slotOf b ↔ a = b := by
  constructor
  · intro h
    have := congrArg BitVec.toNat h
    rw [slotOf_toNat, slotOf_toNat] at this
    exact BitVec.eq_of_toNat_eq this
  · rintro rfl; rfl

theorem scanByte_match (b : Byte) (s : State) (h : s.rx.prev2 = 0x0FF#9 ∧ s.rx.prev1 = 0x0FF#9 ∧ b = 0xFE#8) :
    scanByte b s = { s with rx := s.rx.enterCapture } :=
  if_pos ((preambleMatches_iff _ _).2 h)

theorem scanByte_shift (b : Byte) (s : State) (h : ¬(s.rx.prev2 = 0x0FF#9 ∧ s.rx.prev1 = 0x0FF#9 ∧ b = 0xFE#8)) :
    scanByte b s = { s with rx := s.rx.shiftHistory b } :=
  if_neg (fun hm => h ((preambleMatches_iff _ _).1 hm))

theorem toNat_lastCapIdx (n : NValues) : (lastCapIdx n).toNat = 4 * n.count := by
  cases n <;> rfl

/-- A payload byte that is not the last (R166). -/
theorem captureByte_more (b : Byte) (s : State) (h : s.rx.capidx ≠ lastCapIdx s.cfg.rx.nValues) :
    captureByte b s = { s with rx := { s.rx.store b with capidx := s.rx.capidx + 1#5 } } := by
  simp [captureByte, h]

/-- The last payload byte (R166, R168). -/
theorem captureByte_last (b : Byte) (s : State) (h : s.rx.capidx = lastCapIdx s.cfg.rx.nValues) :
    captureByte b s =
      { s with
        rx := Rxu.resumeScan { s.rx.store b with
          recOut := some (capRecord s.cfg.rx.nValues (s.rx.store b).capbuf) }
        records := s.records ++ [capRecord s.cfg.rx.nValues (s.rx.store b).capbuf] } := by
  simp [captureByte, h, complete, emit]

theorem length_capRecord (n : NValues) (buf : Vector Byte 17) : (capRecord n buf).values.length = n.count := by
  cases n <;> rfl

end Sys2Proof.Machine
end

