-- ==== Sys2Proof/Laws/Exec.lean ====
section
/-! SUPPORT. What each operation can do, said once: the inversion lemmas of `exec`. -/

namespace Sys2Proof.Machine

/-- A command of TXU either waits (READY = 0) and changes nothing, or is accepted: it starts its bytes, or raises
ReservedCommand (R53, R129). -/
theorem exec_tx_next (i : Instr) (s t : State) (hi : i.agent = .txu) (h : exec i s = .next t) :
    (s.tx.phase ≠ .idle ∧ t = s) ∨
    (s.tx.phase = .idle ∧
      ((∃ op, i = .reservedCmd op ∧ t = raise (.reservedCommand op) s) ∨
       (∃ b rest, (∀ op, i ≠ .reservedCmd op) ∧ t = start (b :: rest) s ∧
        ((b :: rest).length = 1 ∨ (b :: rest).length = 4 ∨ (b :: rest).length = s.cfg.tx.nValues.frameLen)))) := by
  cases i with
  | txByte d =>
    obtain ⟨hp, ht⟩ | ⟨hp, ht⟩ := acceptIfReady_next _ s t h
    · exact .inr ⟨hp, .inr ⟨d, [], by simp, ht, .inl rfl⟩⟩
    · exact .inl ⟨hp, ht⟩
  | txU32 v =>
    obtain ⟨hp, ht⟩ | ⟨hp, ht⟩ := acceptIfReady_next _ s t h
    · exact .inr ⟨hp, .inr ⟨_, _, by simp, ht, .inr (.inl rfl)⟩⟩
    · exact .inl ⟨hp, ht⟩
  | txCycle status values =>
    simp only [exec, execTxCycle] at h
    split at h
    · rename_i hl
      obtain ⟨hp, ht⟩ | ⟨hp, ht⟩ := acceptIfReady_next _ s t h
      · refine .inr ⟨hp, .inr ⟨pre0, pre1 :: pre2 :: payloadBytes status values, by simp, ht, .inr (.inr ?_)⟩⟩
        simp [NValues.frameLen, hl]
        omega
      · exact .inl ⟨hp, ht⟩
    · cases h
  | reservedCmd op =>
    obtain ⟨hp, ht⟩ | ⟨hp, ht⟩ := acceptIfReady_next _ s t h
    · exact .inr ⟨hp, .inl ⟨op, rfl, ht⟩⟩
    · exact .inl ⟨hp, ht⟩
  | rxByte b => cases hi
  | rxEos => cases hi

/-- A token of RXU scans, captures, stops or is ignored, by RX_STATE; it always completes (R150). -/
theorem exec_rx_next (i : Instr) (s t : State) (hi : i.agent = .rxu) (h : exec i s = .next t) :
    (∃ b, i = .rxByte b ∧ s.rx.state = .scan ∧ t = scanByte b s.dropRecord) ∨
    (∃ b, i = .rxByte b ∧ s.rx.state = .capture ∧ t = captureByte b s.dropRecord) ∨
    (i = .rxEos ∧ s.rx.state ≠ .stopped ∧ t = endOfStream s.dropRecord) ∨
    (s.rx.state = .stopped ∧ t = s.dropRecord) := by
  cases i with
  | txByte d => cases hi
  | txU32 v => cases hi
  | txCycle status values => cases hi
  | reservedCmd op => cases hi
  | rxByte b =>
    cases hs : s.rx.state <;> simp [exec, execRxByte, hs] at h <;> simp [h]
  | rxEos =>
    cases hs : s.rx.state <;> simp [exec, execRxEos, hs] at h <;> simp [h]

/-- No operation is refused but a TX_CYCLE that does not fit the port (R109). -/
theorem exec_refused (i : Instr) (s : State) (r : Refusal) (h : exec i s = .refused r) :
    r = .doesNotFitPort ∧ i.wellFormed s.cfg.tx.nValues = false := by
  cases i with
  | txByte d => simp [exec, execTxByte, acceptIfReady] at h; split at h <;> cases h
  | txU32 v => simp [exec, execTxU32, acceptIfReady] at h; split at h <;> cases h
  | txCycle status values =>
    simp only [exec, execTxCycle] at h
    split at h
    · simp [acceptIfReady] at h; split at h <;> cases h
    · rename_i hl
      exact ⟨by simpa using h.symm, by simpa [Instr.wellFormed] using hl⟩
  | reservedCmd op => simp [exec, execReservedCmd, acceptIfReady] at h; split at h <;> cases h
  | rxByte b => cases hs : s.rx.state <;> simp [exec, execRxByte, hs] at h
  | rxEos => cases hs : s.rx.state <;> simp [exec, execRxEos, hs] at h

/-- A token changes RXU's registers and the record list only (R79, R196). -/
theorem scanByte_frame (b : Byte) (s : State) :
    (scanByte b s).cfg = s.cfg ∧ (scanByte b s).tx = s.tx ∧ (scanByte b s).records = s.records ∧
      (scanByte b s).txIn = s.txIn ∧ (scanByte b s).rxIn = s.rxIn ∧ (scanByte b s).sched = s.sched ∧
      (scanByte b s).free = s.free ∧ (scanByte b s).rx.capbuf = s.rx.capbuf ∧
      (scanByte b s).rx.recOut = s.rx.recOut := by
  unfold scanByte
  split <;> simp

theorem captureByte_frame (b : Byte) (s : State) :
    (captureByte b s).cfg = s.cfg ∧ (captureByte b s).tx = s.tx ∧
      (captureByte b s).txIn = s.txIn ∧ (captureByte b s).rxIn = s.rxIn ∧ (captureByte b s).sched = s.sched ∧
      (captureByte b s).free = s.free := by
  by_cases h : s.rx.capidx = lastCapIdx s.cfg.rx.nValues
  · simp [captureByte_last b s h]
  · simp [captureByte_more b s h]

/-- `start` changes TXU's registers and the free-value counter only. -/
theorem start_frame (bytes : List Byte) (s : State) :
    (start bytes s).cfg = s.cfg ∧ (start bytes s).rx = s.rx ∧ (start bytes s).records = s.records ∧
      (start bytes s).txIn = s.txIn ∧ (start bytes s).rxIn = s.rxIn ∧ (start bytes s).sched = s.sched ∧
      (start bytes s).tx.err = s.tx.err := by
  cases bytes <;> simp [start]

end Sys2Proof.Machine
end

