-- ==== Sys2Proof/Machine/Observe.lean ====
section
/-! DEFINITION. What is observed of a TXU run at a chosen boundary t_obs (70_reset_and_hazards.md rule R222, 00_scope.md
rule R21, 10_state.md rule R51; log 24). Boundary 0 is the first boundary of TXU from the state the run starts at. -/

namespace Sys2Proof.Machine

/-- The observation at t_obs (R222). -/
structure TxObservation where
  /-- Line(0) to Line(t_obs − 1): the level of a tick is TX_LINE at the boundary it starts at (R51). -/
  line : List Bool
  /-- The commands accepted at boundaries 0 to t_obs, in order. -/
  accepted : List Instr
  /-- TX_ERR after every action of boundary t_obs (R21). -/
  err : Bool
  /-- BUSY after every action of boundary t_obs (R21). -/
  busy : Bool
  /-- A command is presented at boundary t_obs. -/
  presented : Bool
deriving DecidableEq, Repr

/-- Quiescent at t_obs: BUSY = 0 and no command is presented (R222). -/
def TxObservation.quiescent (o : TxObservation) : Bool := !o.busy && !o.presented

/-- cmd_valid at a boundary with these pins (log 5). -/
def TxInput.presents : TxInput → Bool
  | .reset w => w.isSome
  | .idle => false
  | .offer _ => true
  | .hold _ => true

/-- cmd_valid at the coming boundary of TXU. -/
def State.cmdPresented (s : State) : Bool := s.txIn.head?.elim false TxInput.presents

/-- The command the next step takes, if it takes one. -/
def acceptedAt (s : State) : List Instr :=
  match fetch s with
  | .run i _ => [i]
  | .done _ => []
  | .reject _ => []

/-- The observation at a boundary of TXU that leads from `s` to `t`, `o` being the one at the boundary before, none at
boundary 0. The tick that ends here has the level TX_LINE had since its own boundary (R51). -/
def observeBoundary (s t : State) (o : Option TxObservation) : TxObservation where
  line := o.elim [] fun p => p.line ++ [s.tx.line]
  accepted := o.elim [] (·.accepted) ++ acceptedAt s
  err := t.tx.err
  busy := t.tx.busy
  presented := s.cmdPresented

/-- The observation at t_obs, of at most `fuel` steps; an occasion of RXU adds nothing. A refused word leaves none. -/
def observeFrom (tObs : Nat) : (fuel : Nat) → State → Option TxObservation → Option TxObservation
  | 0, _, _ => none
  | fuel + 1, s, o =>
    match step s with
    | .fault _ => none
    | .refused _ => none
    | .next t =>
      match s.nextAgent with
      | .rxu => observeFrom tObs fuel t o
      | .txu =>
        if (observeBoundary s t o).line.length = tObs then some (observeBoundary s t o)
        else observeFrom tObs fuel t (some (observeBoundary s t o))

/-- The observation at boundary t_obs of the run from `s`: it takes t_obs + 1 boundaries, and at most as many occasions of
RXU come between as the schedule has entries. -/
def txObserve (tObs : Nat) (s : State) : Option TxObservation := observeFrom tObs (tObs + 1 + s.sched.length) s none

end Sys2Proof.Machine
end

