-- ==== Sys2Proof/Laws/Observe.lean ====
section
/-! SUPPORT. What a TXU observation holds, boundary by boundary (70_reset_and_hazards.md rule R222). -/

namespace Sys2Proof.Machine

@[simp] theorem observeBoundary_err (s t : State) (o : Option TxObservation) : (observeBoundary s t o).err = t.tx.err := rfl
@[simp] theorem observeBoundary_busy (s t : State) (o : Option TxObservation) : (observeBoundary s t o).busy = t.tx.busy := rfl
@[simp] theorem observeBoundary_presented (s t : State) (o : Option TxObservation) :
    (observeBoundary s t o).presented = s.cmdPresented := rfl
@[simp] theorem observeBoundary_line_some (s t : State) (o : TxObservation) :
    (observeBoundary s t (some o)).line = o.line ++ [s.tx.line] := rfl
@[simp] theorem observeBoundary_accepted_some (s t : State) (o : TxObservation) :
    (observeBoundary s t (some o)).accepted = o.accepted ++ acceptedAt s := rfl

/-- From boundary m of a run `st` on: the observation at boundary m + d, that of boundary m being right. -/
theorem observeFrom_boundaries (st : Nat → State) (d : Nat) :
    ∀ (m fuel : Nat) (o : Option TxObservation), d < fuel →
      (∀ j ≤ m + d, step (st j) = .next (st (j + 1)) ∧ (st j).nextAgent = .txu) →
      (observeBoundary (st m) (st (m + 1)) o).line = (List.range m).map (fun j => (st (j + 1)).tx.line) →
      (observeBoundary (st m) (st (m + 1)) o).accepted = (List.range (m + 1)).flatMap (fun j => acceptedAt (st j)) →
      observeFrom (m + d) fuel (st m) o = some
        { line := (List.range (m + d)).map fun j => (st (j + 1)).tx.line
          accepted := (List.range (m + d + 1)).flatMap fun j => acceptedAt (st j)
          err := (st (m + d + 1)).tx.err
          busy := (st (m + d + 1)).tx.busy
          presented := (st (m + d)).cmdPresented } := by
  induction d with
  | zero =>
    intro m fuel o hf hst hl ha
    obtain ⟨k, rfl⟩ : ∃ k, fuel = k + 1 := ⟨fuel - 1, by omega⟩
    simp only [observeFrom, (hst m (by omega)).1, (hst m (by omega)).2, hl, List.length_map, List.length_range,
      Nat.add_zero, if_true]
    rw [← hl, ← ha]
    rfl
  | succ d ih =>
    intro m fuel o hf hst hl ha
    obtain ⟨k, rfl⟩ : ∃ k, fuel = k + 1 := ⟨fuel - 1, by omega⟩
    have hne : ¬ m = m + (d + 1) := by omega
    simp only [observeFrom, (hst m (by omega)).1, (hst m (by omega)).2, hl, List.length_map, List.length_range, hne,
      if_false]
    have h := ih (m + 1) k (some (observeBoundary (st m) (st (m + 1)) o)) (by omega)
      (fun j hj => hst j (by omega)) (by simp [hl, List.range_succ]) (by simp [ha, List.range_succ])
    rwa [show m + 1 + d = m + (d + 1) by omega] at h

/-- The observation at t_obs of a run of TXU boundaries `st 0`, `st 1`, ..: the levels Line(0 .. t_obs − 1), each being
TX_LINE after its boundary, the commands accepted up to t_obs, and TX_ERR and BUSY after boundary t_obs (R21, R222). -/
theorem txObserve_eq (st : Nat → State) (tObs : Nat)
    (h : ∀ j ≤ tObs, step (st j) = .next (st (j + 1)) ∧ (st j).nextAgent = .txu) :
    txObserve tObs (st 0) = some
      { line := (List.range tObs).map fun j => (st (j + 1)).tx.line
        accepted := (List.range (tObs + 1)).flatMap fun j => acceptedAt (st j)
        err := (st (tObs + 1)).tx.err
        busy := (st (tObs + 1)).tx.busy
        presented := (st tObs).cmdPresented } := by
  have := observeFrom_boundaries st tObs 0 (tObs + 1 + (st 0).sched.length) none (by omega) (by simpa using h) rfl
    (by simp [observeBoundary])
  simpa [txObserve] using this

end Sys2Proof.Machine
end

