-- ==== Sys2Proof/Laws/PerInstr.lean ====
section
/-! SUPPORT. The family EncodeFits, one lemma for each constructor of `Instr`: the word of a well-formed operation stands on
the operation's own port and has that port's width (30_encoding.md rules R100, R106 and R109). -/

namespace Sys2Proof.Laws.EncodeFits

/-- The word has the width of its unit's port, for every build. -/
def Statement (i : Instr) : Prop :=
  ∀ n : NValues, i.wellFormed n = true →
    match encode n i with
    | .cmd w => i.agent = .txu ∧ w.length = n.cmdBytes
    | .tok _ => i.agent = .rxu

theorem txByte (d : Byte) : Statement (.txByte d) := by
  intro n _
  cases n <;> exact ⟨rfl, rfl⟩

theorem txU32 (v : U32) : Statement (.txU32 v) := by
  intro n _
  cases n <;> exact ⟨rfl, rfl⟩

theorem txCycle (status : Byte) (values : List U32) : Statement (.txCycle status values) := by
  intro n h
  have hl : values.length = n.count := by simpa [Instr.wellFormed] using h
  refine ⟨rfl, ?_⟩
  simp [hl, NValues.cmdBytes]
  omega

theorem reservedCmd (op : Byte) : Statement (.reservedCmd op) := by
  intro n _
  cases n <;> exact ⟨rfl, rfl⟩

theorem rxByte (b : Byte) : Statement (.rxByte b) := by
  intro n _
  rfl

theorem rxEos : Statement .rxEos := by
  intro n _
  rfl

end Sys2Proof.Laws.EncodeFits
end

