-- ==== Sys2Proof/Laws/Started.lean ====
section
/-! SUPPORT. What an accepted command leaves in TXU (40_transmitter.md rules R125 and R129). -/

namespace Sys2Proof.Machine

theorem toNat_symbolLen (k : StopBits) : (BitVec.ofNat 4 (symbolLen k)).toNat = symbolLen k := by
  cases k <;> rfl

/-- start(Q) of a command's bytes, at most the 20 that TX_Q holds (R39), is the start of those bytes. -/
theorem start_started (b : Byte) (rest : List Byte) (s : State) (h : rest.length + 1 ≤ 20) :
    (start (b :: rest) s).tx.Started s.cfg.tx (b :: rest) := by
  rw [start_cons]
  constructor
  · rfl
  · rfl
  · rfl
  · simp only [loadSymbol_bitcnt, toNat_symbolLen]
  · simp only [loadSymbol_timer, toNat_holdTicks]
  · simp only [loadSymbol_qlen, BitVec.toNat_ofNat, List.length_cons]
    omega
  · rfl
  · intro k hk
    have hk20 : k < 20 := by simp only [List.length_cons] at hk; omega
    simp only [loadSymbol_q]
    rw [Vector.getElem?_eq_getElem hk20, fillQueue_get _ _ _ hk hk20, List.getElem?_eq_getElem hk]

end Sys2Proof.Machine
end

