-- ==== Sys2Proof/Laws/Step.lean ====
section
/-! SUPPORT. What one step can do, said once: the inversion lemma of `step`. -/

namespace Sys2Proof.Machine

/-- TXU's turn is over without a command taken: the state is that of the schedule entry used up, the pins' entry used up or
not, and TXU reset or ticked (R212). -/
inductive TxIdleStep (s : State) : State → Prop where
  | reset (p : Option CmdWord) (rest : List TxInput) (h : s.txIn = .reset p :: rest) :
      TxIdleStep s { s with sched := s.sched.tail, txIn := rest, tx := Txu.reset }
  | noInput (h : s.txIn = []) : TxIdleStep s { s with sched := s.sched.tail, tx := txTick s.cfg.tx s.tx }
  | idle (rest : List TxInput) (h : s.txIn = .idle :: rest) :
      TxIdleStep s { s with sched := s.sched.tail, txIn := rest, tx := txTick s.cfg.tx s.tx }
  | offerMissed (w : CmdWord) (rest : List TxInput) (h : s.txIn = .offer w :: rest)
      (hb : (txTick s.cfg.tx s.tx).phase ≠ .idle) :
      TxIdleStep s { s with sched := s.sched.tail, txIn := rest, tx := txTick s.cfg.tx s.tx }
  | holdWaits (w : CmdWord) (rest : List TxInput) (h : s.txIn = .hold w :: rest)
      (hb : (txTick s.cfg.tx s.tx).phase ≠ .idle) :
      TxIdleStep s { s with sched := s.sched.tail, tx := txTick s.cfg.tx s.tx }

/-- A presented word is decoded and runs, or does not fit the port (R108, R109). -/
theorem acceptWord_cases (w : CmdWord) (s : State) :
    (∃ i, decodeCmd s.cfg.tx.nValues w = .ok i ∧ acceptWord w s = .run i s) ∨
    (w.length ≠ s.cfg.tx.nValues.cmdBytes ∧ acceptWord w s = .reject .doesNotFitPort) := by
  by_cases hl : w.length = s.cfg.tx.nValues.cmdBytes
  · have hd := decodeCmd_of_length s.cfg.tx.nValues w hl
    exact .inl ⟨_, hd, by simp [acceptWord, decode, hd]⟩
  · exact .inr ⟨hl, by simp [acceptWord, decode, decodeCmd, hl]⟩

theorem acceptWord_next (w : CmdWord) (s t : State) (h : (acceptWord w s).outcome = .next t) :
    ∃ i, decodeCmd s.cfg.tx.nValues w = .ok i ∧ exec i s = .next t := by
  obtain ⟨i, hd, ha⟩ | ⟨-, ha⟩ := acceptWord_cases w s
  · rw [ha] at h
    exact ⟨i, hd, h⟩
  · rw [ha] at h
    cases h

/-- What a step comes to when it answers a next state: a boundary of TXU without or with an accepted command, or an occasion
of RXU without a token, with a reset, or with a token. -/
theorem step_cases (s t : State) (h : step s = .next t) :
    (s.nextAgent = .txu ∧ TxIdleStep s t) ∨
    (s.nextAgent = .txu ∧ ∃ w rest i, (s.txIn = .hold w :: rest ∨ s.txIn = .offer w :: rest) ∧
      (txTick s.cfg.tx s.tx).phase = .idle ∧ decodeCmd s.cfg.tx.nValues w = .ok i ∧
      exec i { s with sched := s.sched.tail, txIn := rest, tx := txTick s.cfg.tx s.tx } = .next t) ∨
    (s.nextAgent = .rxu ∧ s.rxIn = [] ∧ t = { s with sched := s.sched.tail }) ∨
    (s.nextAgent = .rxu ∧ ∃ rest, s.rxIn = .reset :: rest ∧
      t = { s with sched := s.sched.tail, rxIn := rest, rx := Rxu.reset }) ∨
    (s.nextAgent = .rxu ∧ ∃ tok rest, s.rxIn = .token tok :: rest ∧
      exec (decodeTok tok) { s with sched := s.sched.tail, rxIn := rest } = .next t) := by
  unfold step fetch at h
  cases ha : s.nextAgent with
  | txu =>
    simp only [ha, fetchTx, State.popSched_txIn] at h
    rcases hin : s.txIn with _ | ⟨x, rest⟩
    · simp only [hin] at h
      cases h
      exact .inl ⟨rfl, .noInput hin⟩
    · cases x with
      | reset p =>
        simp only [hin] at h
        cases h
        exact .inl ⟨rfl, .reset p rest hin⟩
      | idle =>
        simp only [hin] at h
        cases h
        exact .inl ⟨rfl, .idle rest hin⟩
      | offer w =>
        simp only [hin, ready_iff, State.tick_tx, State.popSched_cfg, State.popSched_tx] at h
        by_cases hp : (txTick s.cfg.tx s.tx).phase = .idle
        · simp only [hp, if_true] at h
          obtain ⟨i, hd, he⟩ := acceptWord_next w _ t h
          exact .inr (.inl ⟨rfl, w, rest, i, .inr rfl, hp, hd, he⟩)
        · simp only [hp, if_false] at h
          cases h
          exact .inl ⟨rfl, .offerMissed w rest hin hp⟩
      | hold w =>
        simp only [hin, ready_iff, State.tick_tx, State.popSched_cfg, State.popSched_tx] at h
        by_cases hp : (txTick s.cfg.tx s.tx).phase = .idle
        · simp only [hp, if_true] at h
          obtain ⟨i, hd, he⟩ := acceptWord_next w _ t h
          exact .inr (.inl ⟨rfl, w, rest, i, .inl rfl, hp, hd, he⟩)
        · simp only [hp, if_false] at h
          cases h
          exact .inl ⟨rfl, .holdWaits w rest hin hp⟩
  | rxu =>
    simp only [ha, fetchRx, State.popSched_rxIn] at h
    rcases hin : s.rxIn with _ | ⟨x, rest⟩
    · simp only [hin] at h
      cases h
      exact .inr (.inr (.inl ⟨rfl, rfl, by rw [← hin]; rfl⟩))
    · cases x with
      | reset =>
        simp only [hin] at h
        cases h
        exact .inr (.inr (.inr (.inl ⟨rfl, rest, rfl, rfl⟩)))
      | token tok =>
        simp only [hin] at h
        exact .inr (.inr (.inr (.inr ⟨rfl, tok, rest, rfl, h⟩)))

end Sys2Proof.Machine
end

