-- ==== Sys2Proof/Tests/Slice0.lean ====
section
/-! SUPPORT. The model's own tests, with results from spec/ (95_test_vectors.md and the examples of the rules), the smoke test
of `Instr.wellFormed`, and for each obligation with hypotheses a state that meets them all. -/

namespace Sys2Proof.Tests

open Sys2Proof Sys2Proof.Machine

/-! ### Helpers -/

/-- A calibrated build (H = 104) with this gap, both units having `n` values. -/
def build (n : NValues) (k : StopBits) (gap : Fin 65536) : Config where
  tx :=
    { nValues := n, kStop := k, compUs := .seven, loopOverheadUs := 7, gapUs := gap
      holdFits := by decide, gapFits := Nat.le_of_lt_succ gap.isLt }
  rx := { nValues := n }

/-- TXU with the symbol of 0x41 on the line, as in the trace of T1 (K_STOP = 1): `left` bits left, `ticks` ticks left, byte
`qi` of a queue of `qlen` bytes 0x41. -/
def onLine (c : Config) (left : BitVec 4) (ticks : BitVec 16) (qi qlen : BitVec 5) : State :=
  let sh := symbol c.tx.kStop 0x41#8 >>> (symbolLen c.tx.kStop - left.toNat)
  { State.resetOf c with
    tx :=
      { phase := .bit, line := sh.getLsbD 0, shreg := sh, bitcnt := left, timer := ticks
        q := Vector.replicate 20 0x41#8, qlen := qlen, qi := qi, err := false } }

/-- RXU scanning with this history. -/
def scanning (c : Config) (p2 p1 : BitVec 9) : State :=
  { State.resetOf c with rx := { Rxu.reset with prev2 := p2, prev1 := p1 } }

/-- RXU capturing with `k` payload bytes in, of the bytes 05 34 12 00 00 78 56 34 12 EF BE AD .. (vector X9). -/
def capturing (c : Config) (k : BitVec 5) : State :=
  { State.resetOf c with
    rx :=
      { Rxu.reset with
        state := .capture, prev2 := 0x0FF#9, prev1 := 0x0FF#9, capidx := k
        capbuf := #v[0x05, 0x34, 0x12, 0x00, 0x00, 0x78, 0x56, 0x34, 0x12, 0xEF, 0xBE, 0xAD, 0, 0, 0, 0, 0] } }

/-- RXU stopped, as at the end of P3. -/
def stoppedState : State :=
  { State.reset with rx := { Rxu.reset with state := .stopped, prev2 := 0x0FF#9, prev1 := 0x0FF#9 } }

/-- The next state's value of something, if there is one. -/
def after {α : Type} (o : Host.Outcome State Fault Refusal) (f : State → α) : Option α :=
  match o with
  | .next t => some (f t)
  | .fault _ => none
  | .refused _ => none

/-- The command word of a number, for N_VALUES = 3 (R100). -/
def word (w : Nat) : CmdWord := bytesOfNat 14 w

/-! ### WellFormed refuses each kind of ill-formed term -/

theorem test_wellFormed_cycle_short : (Instr.txCycle 0 [1, 2]).wellFormed .three = false := by decide
theorem test_wellFormed_cycle_other_build : (Instr.txCycle 0 [1, 2, 3, 4]).wellFormed .three = false := by decide
theorem test_wellFormed_cycle : (Instr.txCycle 0 [1, 2, 3, 4]).wellFormed .four = true := by decide
theorem test_wellFormed_reserved_1 : (Instr.reservedCmd 0x01).wellFormed .three = false := by decide
theorem test_wellFormed_reserved_2 : (Instr.reservedCmd 0x02).wellFormed .three = false := by decide
theorem test_wellFormed_reserved_3 : (Instr.reservedCmd 0x03).wellFormed .three = false := by decide
theorem test_wellFormed_reserved_0 : (Instr.reservedCmd 0x00).wellFormed .three = true := by decide

/-! ### Decoding, words written out bit by bit from R102 to R106 -/

/-- R102's pattern dddddddd00000001 with d = 0x41. -/
theorem test_decode_txByte : decode .three (.cmd (word 0b0100000100000001)) = .ok (.txByte 0x41) := by decide

/-- R103's pattern, 32 × w then 00000010, with w = 0x12345678. -/
theorem test_decode_txU32 :
    decode .three (.cmd (word 0b0001001000110100010101100111100000000010)) = .ok (.txU32 0x12345678) := by decide

/-- R104: V[2] V[1] V[0] status 00000011, each value as 32 bits. -/
theorem test_decode_txCycle :
    decode .three (.cmd (word (0b11011110101011011011111011101111 <<< 80 ||| 0b00010010001101000101011001111000 <<< 48 |||
      0b00000000000000000001001000110100 <<< 16 ||| 0b00000101 <<< 8 ||| 0b00000011))) =
      .ok (.txCycle 0x05 [0x00001234, 0x12345678, 0xDEADBEEF]) := by decide

/-- R105: 00000000 is no command's opcode. -/
theorem test_decode_reserved : decode .three (.cmd (word 0b00000000)) = .ok (.reservedCmd 0x00) := by decide
theorem test_decode_reserved_FF : decode .three (.cmd (word 0b1010101011111111)) = .ok (.reservedCmd 0xFF) := by decide

/-- R106: 0bbbbbbbb with b = 0xFE. -/
theorem test_decode_rxByte : decode .three (.tok 0b011111110#9) = .ok (.rxByte 0xFE) := by decide

/-- R106: 1xxxxxxxx; vector X17. -/
theorem test_decode_rxEos : decode .three (.tok 0b110100101#9) = .ok .rxEos := by decide

/-- R109: a word of the other build's width. -/
theorem test_decode_wrong_width :
    decode .three (.cmd (bytesOfNat 18 0x03)) = .error .cmdWidth ∧ decode .four (.cmd (word 0x01)) = .error .cmdWidth := by
  decide

/-- The words of P1 and T9. -/
theorem test_encode_P1 :
    encode .three (.txCycle 0x05 [0x00001234, 0x12345678, 0xDEADBEEF]) =
      .cmd (word 0xDEADBEEF12345678000012340503) := by decide
theorem test_encode_T9 :
    encode .four (.txCycle 0xFE [0xFEFFFFFF, 0x00000000, 0xFFFFFFFF, 0x12345678]) =
      .cmd (bytesOfNat 18 0x12345678FFFFFFFF00000000FEFFFFFFFE03) := by decide

/-! ### The words of spec/opcode_table.json, as the host numbers them -/

theorem test_table_words :
    decodeTableWord 8 0x01 = some (.txByte 0) ∧ decodeTableWord 8 0x02 = some (.txU32 0) ∧
    decodeTableWord 16 0x03 = some (.txCycle 0 [0, 0, 0]) ∧ decodeTableWord 8 0x00 = some (.reservedCmd 0) ∧
    decodeTableWord 16 0x000 = some (.rxByte 0) ∧ decodeTableWord 16 0x100 = some .rxEos ∧
    decodeTableWord 144 0x03 = none := by decide

/-- From reset, the next step runs the placed word: a symbol on the line, TX_ERR, a scanned byte, STOPPED. -/
theorem test_fetch_txByte : after (step (State.reset.withFetchWord 8 0x01)) (·.tx.shreg) = some 0x200 := by decide
theorem test_fetch_txU32 : after (step (State.reset.withFetchWord 8 0x02)) (·.tx.qlen) = some 4 := by decide
theorem test_fetch_txCycle : after (step (State.reset.withFetchWord 16 0x03)) (·.tx.qlen) = some 16 := by decide
theorem test_fetch_reserved : after (step (State.reset.withFetchWord 8 0x00)) (·.tx.err) = some true := by decide
theorem test_fetch_rxByte : after (step (State.reset.withFetchWord 16 0x000)) (·.rx.prev1) = some 0x000 := by decide
theorem test_fetch_rxEos : after (step (State.reset.withFetchWord 16 0x100)) (·.rx.state) = some .stopped := by decide

/-! ### TXU, one step each -/

/-- Section 2.1: the symbol words. -/
theorem test_symbols :
    symbol .one 0x01 = 0x202 ∧ symbol .two 0x01 = 0x602 ∧ symbol .one 0x55 = 0x2AA ∧ symbol .two 0x55 = 0x6AA ∧
    symbol .one 0x80 = 0x300 ∧ symbol .two 0x80 = 0x700 ∧ symbol .one 0xFE = 0x3FC ∧ symbol .two 0xFE = 0x7FC := by decide

/-- T1, boundary 0. -/
theorem test_T1_0 :
    after (exec (.txByte 0x41) State.reset) (fun t => (t.tx.phase, t.tx.line, t.tx.shreg, t.tx.bitcnt, t.tx.timer, t.tx.qi)) =
      some (.bit, false, 0x282, 10, 104, 0) := by decide

/-- T1, boundaries 1, 104, 208 and 1040. -/
theorem test_T1_1 :
    after (step (onLine State.reset.cfg 10 104 0 1)) (fun t => (t.tx.line, t.tx.shreg, t.tx.bitcnt, t.tx.timer)) =
      some (false, 0x282, 10, 103) := by decide
theorem test_T1_104 :
    after (step (onLine State.reset.cfg 10 1 0 1)) (fun t => (t.tx.line, t.tx.shreg, t.tx.bitcnt, t.tx.timer)) =
      some (true, 0x141, 9, 104) := by decide
theorem test_T1_208 :
    after (step (onLine State.reset.cfg 9 1 0 1)) (fun t => (t.tx.line, t.tx.shreg, t.tx.bitcnt, t.tx.timer)) =
      some (false, 0x0A0, 8, 104) := by decide
theorem test_T1_1040 :
    after (step (onLine State.reset.cfg 1 1 0 1)) (fun t => (t.tx.phase, t.tx.line, t.tx.shreg, t.tx.bitcnt, t.tx.timer, t.tx.qi)) =
      some (.idle, true, 0x000, 0, 0, 1) := by decide

/-- T7: the bytes of txw 0x12345678 in wire order. -/
theorem test_T7 :
    after (exec (.txU32 0x12345678) State.reset) (fun t => (t.tx.qlen, (List.range 4).map fun k => t.tx.queueByte (BitVec.ofNat 5 k))) =
      some (4, [0x78, 0x56, 0x34, 0x12]) := by decide

/-- T8: the frame of txc. -/
theorem test_T8 :
    after (exec (.txCycle 0x05 [0x00001234, 0x12345678, 0xDEADBEEF]) State.reset)
        (fun t => (t.tx.qlen, (List.range 16).map fun k => t.tx.queueByte (BitVec.ofNat 5 k))) =
      some (16, [0xFF, 0xFF, 0xFE, 0x05, 0x34, 0x12, 0x00, 0x00, 0x78, 0x56, 0x34, 0x12, 0xEF, 0xBE, 0xAD, 0xDE]) := by decide

/-- T10: after the first of four symbols, GAP_US = 5 ticks at 1. -/
theorem test_T10_gap :
    after (step (onLine (build .three .one 5) 1 1 0 4)) (fun t => (t.tx.phase, t.tx.line, t.tx.timer, t.tx.qi)) =
      some (.gap, true, 5, 1) := by decide

/-- T11: a reserved command sets TX_ERR, and READY stays 1. -/
theorem test_T11_reserved :
    after (exec (.reservedCmd 0x00) State.reset) (fun t => (t.tx.err, t.tx.ready, t.tx.line)) = some (true, true, true) := by decide

/-- T12: rst_tx in the middle of a 0 level. -/
theorem test_T12_reset :
    after (step { onLine State.reset.cfg 10 50 0 1 with txIn := [.reset none] }) (fun t => (t.tx.line, t.tx.phase, t.tx.qlen)) =
      some (true, .idle, 0) := by decide

/-- T14: a command held while BUSY is accepted at the boundary the first one ends; its start bit begins there. -/
theorem test_T14_back_to_back :
    after (step { onLine State.reset.cfg 1 1 0 1 with txIn := [.hold (word 0x4201)] })
        (fun t => (t.tx.phase, t.tx.line, t.tx.shreg, t.txIn)) =
      some (.bit, false, symbol .one 0x42, []) := by decide

/-- T13: `txb 0xFF ; wait 2000 ; txb 0x00` presents the second command 2000 boundaries after the first's acceptance. -/
theorem test_T13_wait :
    (callerInputs .three [.cmd (.txByte 0xFF), .wait 2000, .cmd (.txByte 0x00)]).length = 2001 := by decide +kernel

/-- T1 observed at t_obs = 0, with the command accepted there, and at the end: from the state before boundary 1040 the
observation has BUSY = 0 (R222). -/
theorem test_observe_T1_0 :
    txObserve 0 { State.reset with txIn := [.hold (word 0x4101)] } = some ⟨[], [.txByte 0x41], false, true, true⟩ := by decide
theorem test_observe_T1_1040 :
    (txObserve 0 (onLine State.reset.cfg 1 1 0 1)).map (fun o => (o.busy, o.quiescent)) = some (false, true) := by decide

/-- The tick before boundary 208 is a 1 (T1), and the one from it on a 0: Line(208) is not yet in an observation at 208. -/
theorem test_observe_line :
    (txObserve 1 (onLine State.reset.cfg 9 2 0 1)).map (·.line) = some [true] := by decide

/-- T11's first boundary: a reserved command is presented and accepted, so TX_ERR = 1, BUSY = 0, and not quiescent; one
boundary later quiescent. -/
theorem test_observe_T11 :
    (txObserve 0 { State.reset with txIn := [.hold (word 0x00)] }).map (fun o => (o.err, o.busy, o.quiescent)) =
      some (true, false, false) ∧
    (txObserve 1 { State.reset with txIn := [.hold (word 0x00)], sched := [.txu, .rxu] }).map (·.quiescent) = some true := by
  decide

/-- R54: a command presented while rst_tx = 1 is not accepted, and it is accepted once rst_tx has fallen. -/
theorem test_observe_reset :
    txObserve 1 { State.reset with txIn := [.reset (some (word 0x4101)), .hold (word 0x4101)] } =
      some ⟨[true], [.txByte 0x41], false, true, true⟩ ∧
    (txObserve 0 { State.reset with txIn := [.reset (some (word 0x4101))] }).map (·.quiescent) = some false := by decide

/-! ### RXU, one step each -/

/-- X2, X3, X5 and X11 (right after the record): the last byte FE. -/
theorem test_X2 :
    after (exec (.rxByte 0xFE) (scanning State.reset.cfg 0x100 0x0FF)) (fun t => (t.rx.state, t.rx.prev2, t.rx.prev1)) =
      some (.scan, 0x0FF, 0x0FE) := by decide
theorem test_X3 :
    after (exec (.rxByte 0xFE) (scanning State.reset.cfg 0x0FF 0x0FF)) (fun t => (t.rx.state, t.rx.prev2, t.rx.prev1, t.rx.capidx)) =
      some (.capture, 0x0FF, 0x0FF, 0) := by decide
theorem test_X5 :
    after (exec (.rxByte 0xFE) (scanning State.reset.cfg 0x0FF 0x000)) (fun t => (t.rx.state, t.rx.prev2, t.rx.prev1)) =
      some (.scan, 0x000, 0x0FE) := by decide
theorem test_X11_no_reuse :
    after (exec (.rxByte 0xFE) (scanning State.reset.cfg 0x100 0x100)) (fun t => (t.rx.state, t.rx.prev2, t.rx.prev1)) =
      some (.scan, 0x100, 0x0FE) := by decide

/-- X8: FE right after a match is the status byte. -/
theorem test_X8 :
    after (exec (.rxByte 0xFE) (capturing State.reset.cfg 0)) (fun t => (t.rx.state, t.rx.capidx, t.rx.capbuf[0])) =
      some (.capture, 1, 0xFE) := by decide

/-- X9, token 16: the record, and scanning with an empty history. -/
theorem test_X9 :
    after (exec (.rxByte 0xDE) (capturing State.reset.cfg 12)) (fun t => (t.records, t.rx.recOut, t.rx.state, t.rx.prev1)) =
      some ([⟨0x05, [0x00001234, 0x12345678, 0xDEADBEEF]⟩], some ⟨0x05, [0x00001234, 0x12345678, 0xDEADBEEF]⟩,
        .scan, 0x100) := by decide

/-- X16: RX_EOS one byte short of a record. -/
theorem test_X16 :
    after (exec .rxEos (capturing State.reset.cfg 12)) (fun t => (t.records, t.rx.state, t.rx.prev2, t.rx.capidx)) =
      some ([], .stopped, 0x0FF, 0) := by decide

/-- X14: a byte after the end of the stream. -/
theorem test_X14 :
    after (exec (.rxByte 0xFE) stoppedState) (fun t => (t.rx.state, t.rx.prev1, t.records)) = some (.stopped, 0x0FF, []) := by decide

/-- R172: the record's values on the port. -/
theorem test_valuesPort :
    (Record.mk 0x05 [0x00001234, 0x12345678, 0xDEADBEEF]).valuesPort = 0xDEADBEEF1234567800001234 := by decide

/-! ### Status registers and timing -/

/-- P1 and P2's end, P3's end, and the reset values of R59 to R63. -/
theorem test_txstat_P2 : txstat { Txu.reset with err := true } = 0x06 ∧ txstat Txu.reset = 0x02 := by decide
theorem test_txcfg_P2 : txcfg (build .three .two 0).tx = 0x01 ∧ txcfg (build .three .one 0).tx = 0x00 := by decide
theorem test_rx_registers_P3 :
    rxstat stoppedState.rx = 0x0E ∧ rxcap stoppedState.rx = 0x00 ∧ rxhist stoppedState.rx = 0xFFFF := by decide

/-- Section 2.5: H = 104 and what a build with no loop overhead has. -/
theorem test_timing : (build .three .one 0).tx.holdUs = 104 ∧ (build .three .one 0).tx.TimingOk := by decide

/-! ### States that meet the obligations' hypotheses, each at the edges of its clauses -/

def oneFrame : List U32 := [0x00001234, 0x12345678, 0xDEADBEEF]

theorem witness_DecodeEncodeRoundTrip : (Instr.txCycle 0xFE oneFrame).wellFormed .three = true := by decide
theorem witness_DecodeReadsBits :
    0 < 2 ^ (16 + 32 * NValues.three.count) ∧ 2 ^ 144 - 1 < 2 ^ (16 + 32 * NValues.four.count) ∧
    8 * (word 0x4101).length = 16 + 32 * NValues.three.count := by decide
theorem witness_DecodedIsWellFormed :
    decode .three (.cmd (word 0x4101)) = .ok (.txByte 0x41) ∧ decode .four (.tok 0x1FF) = .ok .rxEos := by decide
theorem witness_IgnoredBitsHaveNoEffect :
    (word 0x4101).length = NValues.three.cmdBytes ∧ (word 0xFF4101).length = NValues.three.cmdBytes ∧
    (word 0x4101)[0]? = (word 0xFF4101)[0]? ∧ (word 0x4101)[0]? ≠ some 0x03 ∧ (word 0x4101)[1]? = (word 0xFF4101)[1]? ∧
    (word 0x1234567802)[4]? = (word 0xFF1234567802)[4]? ∧
    (0x100 : Token).getLsbD 8 = true ∧ (0x1FF : Token).getLsbD 8 = true := by decide
theorem witness_FrameLayout : oneFrame.length = NValues.three.count ∧ [1, 2, 3, 4].length = NValues.four.count := by decide
theorem witness_CycleWordHoldsPayload :
    decode .three (.cmd (word 0xDEADBEEF12345678000012340503)) = .ok (.txCycle 0x05 oneFrame) := by decide
theorem witness_LittleEndianExact : le4 0x12345678 = [0x78, 0x56, 0x34, 0x12] := by decide
theorem witness_TxByteStarts : State.reset.tx.ready = true := by decide
theorem witness_TxU32Starts : (onLine State.reset.cfg 10 1 0 1).tx.ready = false ∧ State.reset.tx.ready = true := by decide
theorem witness_TxCycleStarts :
    State.reset.tx.ready = true ∧ oneFrame.length = State.reset.cfg.tx.nValues.count := by decide
theorem witness_TxCommandFrame :
    queuedBytes (.txByte 0) ≠ [] ∧ queuedBytes (.txU32 0) ≠ [] ∧ queuedBytes (.txCycle 0 oneFrame) ≠ [] ∧
    exec (.txByte 0) State.reset = .next (start [0] State.reset) := ⟨by decide, by decide, by decide, rfl⟩
theorem witness_ReservedCommandSetsErr : State.reset.tx.ready = true := by decide
theorem witness_BusyCommandWaits :
    (Instr.txByte 0).agent = .txu ∧ (Instr.txByte 0).wellFormed .three = true ∧
    (onLine State.reset.cfg 10 1 0 1).tx.busy = true := by decide
/-- A word of one byte held on the command port right after reset. -/
def misfitHeld : State := { State.reset with txIn := [.hold [0x01]] }

theorem witness_MisfitCommandRefused :
    [1, 2].length ≠ State.reset.cfg.tx.nValues.count ∧ misfitHeld.nextAgent = .txu ∧ misfitHeld.tick.tx.ready = true ∧
    misfitHeld.txIn = .hold [0x01] :: [] ∧ 8 * [0x01].length ≠ 16 + 32 * misfitHeld.cfg.tx.nValues.count := by decide
theorem witness_WellFormedOperationsComplete :
    (Instr.txCycle 0 oneFrame).wellFormed State.reset.cfg.tx.nValues = true := by decide
theorem witness_HoldTimeOfConfig : (build .four .two 65535).tx.Calibrated := by decide
theorem witness_TickCountsDown :
    State.reset.Quiet ∧ State.reset.tx.phase = .idle ∧
    (onLine State.reset.cfg 10 2 0 1).Quiet ∧ (onLine State.reset.cfg 10 2 0 1).tx.phase ≠ .idle ∧
    (onLine State.reset.cfg 10 2 0 1).tx.timer ≠ 1 := by decide
theorem witness_TickShiftsNextBit :
    (onLine State.reset.cfg 2 1 0 1).Quiet ∧ (onLine State.reset.cfg 2 1 0 1).tx.phase = .bit ∧
    (onLine State.reset.cfg 2 1 0 1).tx.timer = 1 ∧ (onLine State.reset.cfg 2 1 0 1).tx.bitcnt ≠ 1 := by decide
theorem witness_TickEndsSymbol_over :
    let s := onLine State.reset.cfg 1 1 15 16
    s.Quiet ∧ s.tx.phase = .bit ∧ s.tx.timer = 1 ∧ s.tx.bitcnt = 1 ∧ s.tx.qi + 1 = s.tx.qlen := by decide
theorem witness_TickEndsSymbol_gap :
    let s := onLine (build .three .one 1) 1 1 14 16
    s.Quiet ∧ s.tx.phase = .bit ∧ s.tx.timer = 1 ∧ s.tx.bitcnt = 1 ∧ s.tx.qi + 1 ≠ s.tx.qlen ∧ 0 < s.cfg.tx.gapUs := by decide
theorem witness_TickEndsSymbol_next :
    let s := onLine State.reset.cfg 1 1 14 16
    s.Quiet ∧ s.tx.phase = .bit ∧ s.tx.timer = 1 ∧ s.tx.bitcnt = 1 ∧ s.tx.qi + 1 ≠ s.tx.qlen ∧ s.cfg.tx.gapUs = 0 ∧
      s.tx.q[(s.tx.qi + 1).toNat]? = some 0x41 := by decide

/-- TXU at the last tick of a gap before byte 1 of 4. -/
def gapEnding : State :=
  { State.resetOf (build .three .one 5) with
    tx := { Txu.reset with phase := .gap, timer := 1, q := Vector.replicate 20 0x41#8, qlen := 4, qi := 1 } }

theorem witness_TickEndsGap :
    gapEnding.Quiet ∧ gapEnding.tx.phase = .gap ∧ gapEnding.tx.timer = 1 ∧
    gapEnding.tx.q[gapEnding.tx.qi.toNat]? = some 0x41 := by decide
/-- A command held on the port while another one is being accepted. -/
def nextHeld : State := { State.reset with txIn := [.hold (word 0x4201)] }

theorem witness_LineOfOneCommand :
    nextHeld.tx.ready = true ∧ queuedBytes (.txByte 0x41) ≠ [] ∧
    exec (.txByte 0x41) nextHeld = .next (start [0x41] nextHeld) ∧
    (start [0x41] nextHeld).sched = [] ∧ ∀ x ∈ (start [0x41] nextHeld).txIn, x.isReset = false :=
  ⟨by decide, by decide, rfl, rfl, by decide⟩
theorem witness_LineOfOneCommand_alone :
    exec (.txByte 0x41) State.reset = .next (start [0x41] State.reset) ∧ (start [0x41] State.reset).Quiet :=
  ⟨rfl, ⟨rfl, rfl⟩⟩
theorem witness_CalibratedDurations :
    (build .three .one 0).tx.Calibrated ∧ (build .three .one 0).tx.gapUs = 0 ∧ (build .three .one 0).tx.kStop = .one ∧
    (build .four .two 0).tx.Calibrated ∧ (build .four .two 0).tx.gapUs = 0 ∧ (build .four .two 0).tx.kStop = .two := by decide

theorem resetState_inv : State.reset.Inv := ⟨by decide, by decide, by decide⟩

theorem witness_BackToBackLine :
    State.reset.Inv ∧ State.reset.tx.ready = true ∧ State.reset.sched = [] ∧ State.reset.cfg.tx.gapUs = 0 ∧
    ∀ i ∈ [Instr.txByte 0x41, Instr.txU32 7],
      queuedBytes i ≠ [] ∧ i.wellFormed State.reset.cfg.tx.nValues = true :=
  ⟨resetState_inv, by decide, rfl, rfl, by decide⟩
theorem witness_PseudoInstructionsSameLine :
    State.reset.tx.ready = true ∧ State.reset.sched = [] ∧ State.reset.cfg.tx.gapUs = 0 ∧
    oneFrame.length = State.reset.cfg.tx.nValues.count := by decide
theorem witness_HeldCommandIsAccepted :
    let s : State := { onLine State.reset.cfg 10 104 0 1 with txIn := [.hold (word 0x4101)] }
    s.Inv ∧ s.sched = [] ∧ s.txIn = .hold (word 0x4101) :: [] ∧
      decode s.cfg.tx.nValues (.cmd (word 0x4101)) = .ok (.txByte 0x41) :=
  ⟨⟨by decide, by decide, by decide⟩, rfl, rfl, by decide⟩

theorem witness_PreambleMatchExactly :
    (scanning State.reset.cfg 0x0FF 0x0FF).rx.state = .scan ∧ (scanning State.reset.cfg 0x100 0x0FF).rx.state = .scan := by decide
theorem witness_MatchEntersCapture :
    (scanning State.reset.cfg 0x0FF 0x0FF).rx.state = .scan ∧ (scanning State.reset.cfg 0x0FF 0x0FF).rx.prev2 = 0x0FF ∧
    (scanning State.reset.cfg 0x0FF 0x0FF).rx.prev1 = 0x0FF := by decide
theorem witness_NoMatchShiftsHistory :
    State.reset.rx.state = .scan ∧
    ¬(State.reset.rx.prev2 = 0x0FF ∧ State.reset.rx.prev1 = 0x0FF ∧ (0xFE : Byte) = 0xFE) := by decide
theorem witness_ScanByteFrame :
    State.reset.rx.state = .scan ∧ (Instr.rxByte 0xFE).agent = .rxu ∧
    exec (.rxByte 0xFE) State.reset = .next (scanByte 0xFE State.reset.dropRecord) := ⟨by decide, by decide, rfl⟩
theorem witness_CaptureStoresByte :
    (capturing State.reset.cfg 0).rx.state = .capture ∧ (capturing State.reset.cfg 0).rx.capidx.toNat < 4 * 3 ∧
    (capturing State.reset.cfg 11).rx.capidx.toNat < 4 * State.reset.cfg.rx.nValues.count ∧
    (capturing (build .four .one 0) 15).rx.state = .capture ∧
    (capturing (build .four .one 0) 15).rx.capidx.toNat < 4 * (build .four .one 0).rx.nValues.count := by decide
theorem witness_CaptureCompletesRecord :
    (capturing (build .three .one 0) 12).rx.state = .capture ∧
    (capturing (build .three .one 0) 12).rx.capidx.toNat = 4 * (build .three .one 0).rx.nValues.count ∧
    (capturing (build .four .one 0) 16).rx.capidx.toNat = 4 * (build .four .one 0).rx.nValues.count := by decide
theorem witness_EosStops :
    (capturing State.reset.cfg 12).rx.state ≠ .stopped ∧ State.reset.rx.state ≠ .stopped := by decide
theorem witness_StoppedIgnoresTokens :
    stoppedState.rx.state = .stopped ∧ step stoppedState = .next stoppedState := ⟨by decide, rfl⟩
theorem witness_TokenFrame :
    Instr.rxEos.agent = .rxu ∧ exec .rxEos State.reset = .next (endOfStream State.reset.dropRecord) := ⟨by decide, rfl⟩
theorem witness_RecordPortBits :
    (Record.mk 0 [1, 2, 3, 4]).values.length ≤ 4 ∧ (Record.mk 0 [1, 2, 3, 4]).values[3]? = some 4 := by decide

theorem witness_ScannerWindow :
    State.reset.rx.state = .scan ∧ State.reset.rx.prev2 = emptySlot ∧ State.reset.rx.prev1 = emptySlot ∧
    ¬ preamble <:+: [0xFF, 0xFF, 0x00, 0xFE] := by decide
theorem witness_LinkRoundTrip :
    (scanning State.reset.cfg 0x0FF 0x0FF).rx.state = .scan ∧ oneFrame.length = State.reset.cfg.rx.nValues.count := by decide
theorem witness_Resynchronization :
    ¬ preamble <:+: [0x00, 0xFF, 0xFF] ∧ oneFrame.length = (build .three .one 0).rx.nValues.count := by decide
theorem witness_MultiFrame :
    ∀ r ∈ [Record.mk 0xFE oneFrame] ++ [Record.mk 0xFF oneFrame],
      r.values.length = (build .three .one 0).rx.nValues.count := by decide
theorem witness_TruncatedFrameDropped :
    ([] : List Byte).length < 4 * (build .three .one 0).rx.nValues.count ∧
    (List.replicate 15 (0xFE : Byte)).length < 4 * (build .four .one 0).rx.nValues.count := by decide
theorem witness_PayloadBytesNotReused :
    State.reset.rx.state = .scan ∧ [0, 0, 0xFFFF0000].length = State.reset.cfg.rx.nValues.count ∧
    ¬ preamble <:+: ([0xFE] : List Byte) := by decide
theorem witness_MismatchFourToThree :
    State.reset.rx.state = .scan ∧ State.reset.cfg.rx.nValues = .three ∧ ¬ preamble <:+: le4 0x44444444 := by decide
theorem witness_EmitOnlyOnCompletion :
    step { capturing State.reset.cfg 12 with rxIn := [.token 0x0DE], sched := [.rxu] } =
      .next (captureByte 0xDE (capturing State.reset.cfg 12).dropRecord) := rfl

theorem witness_TxBoundaryOrder :
    State.reset.nextAgent = .txu ∧
    (txTick State.reset.cfg.tx (onLine State.reset.cfg 10 1 0 1).tx).busy = true := by decide
theorem witness_StepRunsAcceptedCommand :
    let s : State := { State.reset with txIn := [.hold (word 0x4101)] }
    s.nextAgent = .txu ∧ s.txIn = .hold (word 0x4101) :: [] ∧ (txTick s.cfg.tx s.tx).ready = true ∧
      decode s.cfg.tx.nValues (.cmd (word 0x4101)) = .ok (.txByte 0x41) := by decide
theorem witness_RxStepRunsToken :
    let s : State := { State.reset with rxIn := [.token 0x0FE], sched := [.rxu] }
    s.nextAgent = .rxu ∧ s.rxIn = .token 0x0FE :: [] := by decide
theorem witness_PlacedWordRuns :
    (Instr.txByte 0x41).wellFormed State.reset.cfg.tx.nValues = true ∧ State.reset.tx.ready = true := by decide
theorem witness_StepKeepsInv : State.reset.Inv ∧ step State.reset = .next State.reset := ⟨resetState_inv, rfl⟩
theorem witness_LineInvariant :
    (onLine State.reset.cfg 10 1 0 1).Inv ∧
    after (step (onLine State.reset.cfg 10 1 0 1)) (·.tx.line) = some true ∧
    (onLine State.reset.cfg 10 1 0 1).tx.line = false := ⟨⟨by decide, by decide, by decide⟩, by decide, by decide⟩
theorem witness_StepKeepsConfig : step State.reset = .next State.reset := rfl
theorem witness_TxErrSticky :
    ({ State.reset with txIn := [.reset none] } : State).TxResetNow ∧ ¬ State.reset.TxResetNow ∧
    step State.reset = .next State.reset := ⟨by decide, by decide, rfl⟩
theorem witness_UnitsDoNotTouchEachOther :
    State.reset.nextAgent = .txu ∧ ({ State.reset with sched := [.rxu] } : State).nextAgent = .rxu ∧
    step { State.reset with sched := [.rxu] } = .next State.reset := ⟨by decide, by decide, rfl⟩
theorem witness_InterleavingDoesNotMatter :
    run [Agent.rxu, Agent.txu].length { State.reset with sched := [.rxu, .txu] } = .next State.reset := rfl

end Sys2Proof.Tests
end

section
/-! The independence of the two units (00_scope.md rule R23, 20_memory.md rule R79, 60_exceptions.md rules R190 and R196): a
step of one unit commutes with putting that unit's side into any other state of the same build. What a step leaves alone, and
that it does not see what it leaves alone, both follow. -/

namespace Sys2Proof.Machine

/-! ### A run, step by step -/

@[simp] theorem run_zero (s : State) : run 0 s = .next s := rfl

theorem run_succ_of_step {s t : State} (k : Nat) (h : step s = .next t) : run (k + 1) s = run k t := by
  have hc : Sys2Proof.core.step s = .next t := h
  simp only [run, Host.Core.run, hc]
  rfl

/-- A run that answers a next state does so through the next state of its first step. -/
theorem step_of_run_succ {s t : State} {k : Nat} (h : run (k + 1) s = .next t) :
    ∃ s', step s = .next s' ∧ run k s' = .next t := by
  cases hs : step s with
  | next s' => exact ⟨s', rfl, run_succ_of_step k hs ▸ h⟩
  | fault r => cases r
  | refused r =>
    have hc : Sys2Proof.core.step s = .refused r := hs
    simp only [run, Host.Core.run, hc] at h
    cases h

/-! ### One unit's side of a state -/

/-- `u` with the registers, the inputs and the outputs of unit `a` taken from `s`. -/
def State.graft (a : Agent) (u s : State) : State :=
  match a with
  | .txu => { u with tx := s.tx, txIn := s.txIn, free := s.free }
  | .rxu => { u with rx := s.rx, records := s.records, rxIn := s.rxIn }

@[simp] theorem State.graft_cfg (a : Agent) (u s : State) : (u.graft a s).cfg = u.cfg := by cases a <;> rfl
@[simp] theorem State.graft_txu_tx (u s : State) : (u.graft .txu s).tx = s.tx := rfl
@[simp] theorem State.graft_txu_txIn (u s : State) : (u.graft .txu s).txIn = s.txIn := rfl
@[simp] theorem State.graft_rxu_rx (u s : State) : (u.graft .rxu s).rx = s.rx := rfl
@[simp] theorem State.graft_rxu_rxIn (u s : State) : (u.graft .rxu s).rxIn = s.rxIn := rfl

@[simp] theorem State.graft_self (a : Agent) (s : State) : s.graft a s = s := by cases a <;> rfl

@[simp] theorem State.graft_popSched (a : Agent) (u s : State) : u.graft a s.popSched = u.graft a s := by
  cases a <;> rfl

@[simp] theorem State.popSched_graft (a : Agent) (u s : State) : (u.graft a s).popSched = u.popSched.graft a s := by
  cases a <;> rfl

@[simp] theorem State.nextAgent_graft (a : Agent) (u s : State) : (u.graft a s).nextAgent = u.nextAgent := by
  cases a <;> rfl

/-- The two sides have no element in common. -/
theorem State.graft_graft_of_ne {a b : Agent} (h : a ≠ b) (u v w : State) : u.graft a (v.graft b w) = u.graft a v := by
  cases a with
  | txu =>
    cases b with
    | txu => exact absurd rfl h
    | rxu => rfl
  | rxu =>
    cases b with
    | txu => rfl
    | rxu => exact absurd rfl h

/-- An outcome with its next state, if it has one, changed by `f`. -/
def mapNext (f : State → State) : Host.Outcome State Fault Refusal → Host.Outcome State Fault Refusal
  | .next s => .next (f s)
  | .fault r => .fault r
  | .refused r => .refused r

@[simp] theorem mapNext_next (f : State → State) (s : State) : mapNext f (.next s) = .next (f s) := rfl
@[simp] theorem mapNext_refused (f : State → State) (r : Refusal) : mapNext f (.refused r) = .refused r := rfl

section
variable {u s : State}

/-! ### The operations see their own side only -/

theorem acceptIfReady_graft {f : State → State} (hf : f (u.graft .txu s) = u.graft .txu (f s)) :
    acceptIfReady f (u.graft .txu s) = mapNext (u.graft .txu) (acceptIfReady f s) := by
  by_cases hp : s.tx.phase = .idle
  · rw [acceptIfReady_ready f (u.graft .txu s) hp, acceptIfReady_ready f s hp, hf, mapNext_next]
  · rw [acceptIfReady_busy f (u.graft .txu s) hp, acceptIfReady_busy f s hp, mapNext_next]

theorem start_graft (hc : u.cfg = s.cfg) (bytes : List Byte) :
    start bytes (u.graft .txu s) = u.graft .txu (start bytes s) := by
  cases bytes with
  | nil => rfl
  | cons b rest => simp [start_cons, State.graft, hc]

theorem raise_graft (e : Event) : raise e (u.graft .txu s) = u.graft .txu (raise e s) := by cases e; rfl

theorem scanByte_graft (b : Byte) : scanByte b (u.graft .rxu s) = u.graft .rxu (scanByte b s) := by
  by_cases h : s.rx.prev2 = 0x0FF#9 ∧ s.rx.prev1 = 0x0FF#9 ∧ b = 0xFE#8
  · rw [scanByte_match b (u.graft .rxu s) h, scanByte_match b s h]
    rfl
  · rw [scanByte_shift b (u.graft .rxu s) h, scanByte_shift b s h]
    rfl

theorem captureByte_graft (hc : u.cfg = s.cfg) (b : Byte) :
    captureByte b (u.graft .rxu s) = u.graft .rxu (captureByte b s) := by
  by_cases h : s.rx.capidx = lastCapIdx s.cfg.rx.nValues
  · have hu : (u.graft .rxu s).rx.capidx = lastCapIdx (u.graft .rxu s).cfg.rx.nValues := by simpa [hc] using h
    rw [captureByte_last b _ hu, captureByte_last b s h]
    simp [State.graft, hc]
  · have hu : (u.graft .rxu s).rx.capidx ≠ lastCapIdx (u.graft .rxu s).cfg.rx.nValues := by simpa [hc] using h
    rw [captureByte_more b _ hu, captureByte_more b s h]
    rfl

theorem endOfStream_graft : endOfStream (u.graft .rxu s) = u.graft .rxu (endOfStream s) := rfl

theorem dropRecord_graft : (u.graft .rxu s).dropRecord = u.graft .rxu s.dropRecord := rfl

/-- An operation reads and changes the side of its own unit only (R79, R196). -/
theorem exec_graft (hc : u.cfg = s.cfg) (i : Instr) :
    exec i (u.graft i.agent s) = mapNext (u.graft i.agent) (exec i s) := by
  cases i with
  | txByte d => exact acceptIfReady_graft (start_graft hc _)
  | txU32 v => exact acceptIfReady_graft (start_graft hc _)
  | txCycle status values =>
    have ha := acceptIfReady_graft (start_graft hc (cycleQueue status values))
    by_cases hl : values.length = s.cfg.tx.nValues.count <;>
      simp [exec, execTxCycle, Instr.agent, hc, hl, ha]
  | reservedCmd op => exact acceptIfReady_graft (raise_graft _)
  | rxByte b =>
    have hcap := captureByte_graft (s := s.dropRecord) hc b
    cases hs : s.rx.state <;>
      simp [exec, execRxByte, Instr.agent, hs, dropRecord_graft, scanByte_graft, hcap]
  | rxEos =>
    cases hs : s.rx.state <;>
      simp [exec, execRxEos, Instr.agent, hs, dropRecord_graft, endOfStream_graft]

/-! ### So do the steps -/

theorem tick_graft (hc : u.cfg = s.cfg) : (u.graft .txu s).tick = u.graft .txu s.tick := by
  simp [State.tick, State.graft, hc]

theorem acceptWord_graft (hc : u.cfg = s.cfg) (w : CmdWord) :
    (acceptWord w (u.graft .txu s)).outcome = mapNext (u.graft .txu) (acceptWord w s).outcome := by
  by_cases hl : w.length = s.cfg.tx.nValues.cmdBytes
  · have he := exec_graft hc (decodeOp s.cfg.tx.nValues w)
    rw [decodeOp_agent] at he
    simpa [acceptWord, decode, decodeCmd, Fetched.outcome, hc, hl] using he
  · simp [acceptWord, decode, decodeCmd, Fetched.outcome, hc, hl]

/-- A presented word is taken or missed by TXU's own side; `d` is the state when it is missed (R53). -/
theorem presented_graft (hc : u.cfg = s.cfg) (w : CmdWord) (rest : List TxInput) (d : State) :
    (if (u.graft .txu s.tick).tx.ready then acceptWord w { u.graft .txu s.tick with txIn := rest }
      else .done (u.graft .txu d)).outcome =
    mapNext (u.graft .txu)
      (if s.tick.tx.ready then acceptWord w { s.tick with txIn := rest } else .done d).outcome := by
  by_cases hp : s.tick.tx.ready = true
  · rw [State.graft_txu_tx, if_pos hp, if_pos hp]
    exact acceptWord_graft (s := { s.tick with txIn := rest }) hc w
  · rw [State.graft_txu_tx, if_neg hp, if_neg hp]
    rfl

theorem fetchTx_graft (hc : u.cfg = s.cfg) :
    (fetchTx (u.graft .txu s)).outcome = mapNext (u.graft .txu) (fetchTx s).outcome := by
  have ht := tick_graft hc
  unfold fetchTx
  rcases hin : s.txIn with _ | ⟨x, rest⟩
  · simp [hin, Fetched.outcome, ht]
  · cases x with
    | reset p => simp only [State.graft_txu_txIn, hin]; rfl
    | idle => simp only [State.graft_txu_txIn, hin, ht]; rfl
    | offer w =>
      simp only [State.graft_txu_txIn, hin, ht]
      exact presented_graft hc w rest { s.tick with txIn := rest }
    | hold w =>
      simp only [State.graft_txu_txIn, hin, ht]
      exact presented_graft hc w rest s.tick

theorem fetchRx_graft (hc : u.cfg = s.cfg) :
    (fetchRx (u.graft .rxu s)).outcome = mapNext (u.graft .rxu) (fetchRx s).outcome := by
  unfold fetchRx
  rcases hin : s.rxIn with _ | ⟨x, rest⟩
  · simp [hin, Fetched.outcome]
  · cases x with
    | reset => simp only [State.graft_rxu_rxIn, hin]; rfl
    | token tok =>
      have he := exec_graft (s := { s with rxIn := rest }) hc (decodeTok tok)
      rw [decodeTok_agent] at he
      simp only [State.graft_rxu_rxIn, hin]
      exact he

/-- A step of unit `a` reads and changes the side of `a` and the schedule only (R190, R196). -/
theorem step_graft {a : Agent} (hc : u.cfg = s.cfg) (hu : u.nextAgent = a) (hs : s.nextAgent = a) :
    step (u.graft a s) = mapNext (u.popSched.graft a) (step s) := by
  cases a with
  | txu => simpa [step, fetch, hu, hs] using fetchTx_graft (u := u.popSched) (s := s.popSched) hc
  | rxu => simpa [step, fetch, hu, hs] using fetchRx_graft (u := u.popSched) (s := s.popSched) hc

/-- What a step leaves of the state is the old one with the moving unit's side put in (R209). -/
theorem step_frame {t : State} (h : step s = .next t) : t = s.popSched.graft s.nextAgent t := by
  have hg := step_graft (u := s) (s := s) rfl rfl rfl
  rw [State.graft_self, h, mapNext_next] at hg
  exact Host.Outcome.next.inj hg

end

/-! ### And the runs -/

/-- Unit `a`'s own steps, from any state of the same build with `a`'s side put in, leave on that side what the whole schedule
leaves there, and nothing else. -/
theorem run_count_of_run (a : Agent) (u t : State) (σ : List Agent) :
    ∀ s : State, u.cfg = s.cfg → run σ.length { s with sched := σ } = .next t →
      run (σ.count a) (State.graft a { u with sched := List.replicate (σ.count a) a } s) =
        .next (State.graft a { u with sched := [] } t) := by
  induction σ with
  | nil =>
    intro s _ h
    rw [List.length_nil, run_zero] at h
    cases h
    cases a <;> rfl
  | cons b σ ih =>
    intro s hc h
    obtain ⟨s', hs, hr⟩ := step_of_run_succ h
    have hf : s' = State.graft b { s with sched := σ } s' := step_frame hs
    have hc' : s'.cfg = s.cfg := by rw [hf]; simp
    have hσ : { s' with sched := σ } = s' := by rw [hf]; cases b <;> rfl
    have ih' := ih s' (hc.trans hc'.symm) (by rw [hσ]; exact hr)
    by_cases hb : b = a
    · subst hb
      have hg := step_graft (u := { u with sched := b :: List.replicate (σ.count b) b }) (s := { s with sched := b :: σ })
        hc rfl rfl
      rw [hs, mapNext_next] at hg
      rw [List.count_cons_self, List.replicate_succ]
      cases b <;> exact (run_succ_of_step _ hg).trans ih'
    · rw [List.count_cons_of_ne hb]
      rw [hf, State.graft_graft_of_ne (Ne.symm hb)] at ih'
      cases a <;> exact ih'

/-- Settles O57, by induction over the schedule (`run_count_of_run`), for either unit. -/
theorem interleavingDoesNotMatter : Obligations.InterleavingDoesNotMatter := by
  intro s t σ h
  have htx := run_count_of_run .txu s t σ s rfl h
  have hrx := run_count_of_run .rxu s t σ s rfl h
  exact ⟨⟨_, htx, rfl, rfl, rfl⟩, ⟨_, hrx, rfl, rfl, rfl⟩⟩

end Sys2Proof.Machine
end

section
/-! The decoder's operations are well formed, and well-formed operations answer (30_encoding.md rules R105 to R109,
00_scope.md rule R25). -/

namespace Sys2Proof

/-- A command word has as many values as the build, and a reserved opcode is none of the three (R104, R105). -/
theorem decodeOp_wellFormed (n : NValues) (w : CmdWord) : (decodeOp n w).wellFormed n = true := by
  obtain ⟨-, h⟩ | ⟨-, h⟩ | ⟨-, h⟩ | ⟨⟨h1, h2, h3⟩, h⟩ := decodeOp_cases n w
  · rw [h]; rfl
  · rw [h]; rfl
  · simp [h, Instr.wellFormed]
  · simpa [h, Instr.wellFormed, opTxByte, opTxU32, opTxCycle, and_assoc] using And.intro h1 (And.intro h2 h3)

theorem decodeTok_wellFormed (n : NValues) (t : Token) : (decodeTok t).wellFormed n = true := by
  unfold decodeTok
  split <;> rfl

/-- Settles O4, port by port: the command decoder by its opcodes, the token decoder by its two forms. -/
theorem decodedIsWellFormed : Obligations.DecodedIsWellFormed := by
  intro n p i h
  cases p with
  | cmd w =>
    obtain ⟨-, rfl⟩ := decodeCmd_ok n w i h
    exact ⟨decodeOp_wellFormed n w, decodeOp_agent n w⟩
  | tok t =>
    obtain rfl : decodeTok t = i := Except.ok.inj h
    exact ⟨decodeTok_wellFormed n t, decodeTok_agent t⟩

end Sys2Proof

namespace Sys2Proof.Machine

/-- Settles O17: there is no fault, and the one refusal is of an operation that is not well formed (`exec_refused`). -/
theorem wellFormedOperationsComplete : Obligations.WellFormedOperationsComplete := by
  intro s i hi
  cases h : exec i s with
  | next t => exact ⟨t, rfl⟩
  | fault r => cases r
  | refused r =>
    obtain ⟨-, hn⟩ := exec_refused i s r h
    rw [hi] at hn
    cases hn

/-- H of a calibrated build is the bit period, the compensation being at most that (R13). -/
theorem holdUs_of_calibrated (c : TxConfig) (h : c.Calibrated) : c.holdUs = bitPeriodUs := by
  have hl : c.loopOverheadUs = c.compUs.us := h
  have hk := compUs_le c.compUs
  have hb := bitPeriodUs_eq
  rw [TxConfig.holdUs, TxConfig.delayUs]
  omega

/-- Settles O18: H by its definition, and the facts on H, its calibrated value and TX_TIMER's width. -/
theorem holdTimeOfConfig : Obligations.HoldTimeOfConfig :=
  ⟨bitPeriodUs_eq, fun c => ⟨rfl, holdUs_of_calibrated c, toNat_holdTicks c, holdUs_pos c, toNat_gapTicks c⟩⟩

end Sys2Proof.Machine
end

section
/-! The invariant of the machine (10_state.md rules R32 to R45): what a tick of TXU can do, said once, and that each
operation of either unit keeps the unit's invariant. -/

namespace Sys2Proof.Machine

/-! ### A tick of TXU, case by case -/

/-- What a tick makes of TXU (R123, R125 to R128). -/
inductive TickStep (c : TxConfig) (t : Txu) : Txu → Prop where
  | idle (hp : t.phase = .idle) : TickStep c t t
  | wait (hp : t.phase ≠ .idle) (ht : t.timer - 1#16 ≠ 0#16) : TickStep c t { t with timer := t.timer - 1#16 }
  | gapOver (hp : t.phase = .gap) (ht : t.timer - 1#16 = 0#16) :
      TickStep c t (loadSymbol c (t.queueByte t.qi) t)
  | bitOver (hp : t.phase = .bit) (ht : t.timer - 1#16 = 0#16) (hb : t.bitcnt - 1#4 ≠ 0#4) :
      TickStep c t { t with
        shreg := t.shreg >>> 1, bitcnt := t.bitcnt - 1#4, line := (t.shreg >>> 1).getLsbD 0, timer := holdTicks c }
  | commandOver (hp : t.phase = .bit) (ht : t.timer - 1#16 = 0#16) (hb : t.bitcnt - 1#4 = 0#4)
      (hq : t.qi + 1#5 = t.qlen) :
      TickStep c t { t with
        phase := .idle, timer := 0#16, shreg := t.shreg >>> 1, bitcnt := 0#4, qi := t.qi + 1#5, line := true }
  | enterGap (hp : t.phase = .bit) (ht : t.timer - 1#16 = 0#16) (hb : t.bitcnt - 1#4 = 0#4)
      (hq : t.qi + 1#5 ≠ t.qlen) (hg : 0 < c.gapUs) :
      TickStep c t { t with
        phase := .gap, timer := gapTicks c, shreg := t.shreg >>> 1, bitcnt := 0#4, qi := t.qi + 1#5, line := true }
  | nextSymbol (hp : t.phase = .bit) (ht : t.timer - 1#16 = 0#16) (hb : t.bitcnt - 1#4 = 0#4)
      (hq : t.qi + 1#5 ≠ t.qlen) (hg : c.gapUs = 0) :
      TickStep c t (loadSymbol c (t.queueByte (t.qi + 1#5)) { t with qi := t.qi + 1#5 })

theorem txTick_tickStep (c : TxConfig) (t : Txu) : TickStep c t (txTick c t) := by
  by_cases hp : t.phase = .idle
  · rw [txTick_idle c t hp]
    exact .idle hp
  by_cases ht : t.timer - 1#16 = 0#16
  swap
  · rw [txTick_wait c t hp ht]
    exact .wait hp ht
  cases hph : t.phase with
  | idle => exact absurd hph hp
  | gap =>
    rw [txTick_gap_over c t hph ht]
    exact .gapOver hph ht
  | bit =>
    by_cases hb : t.bitcnt - 1#4 = 0#4
    swap
    · rw [txTick_bit_over c t hph ht hb]
      exact .bitOver hph ht hb
    by_cases hq : t.qi + 1#5 = t.qlen
    · rw [txTick_command_over c t hph ht hb hq]
      exact .commandOver hph ht hb hq
    rcases Nat.eq_zero_or_pos c.gapUs with hg | hg
    · rw [txTick_next_symbol c t hph ht hb hq hg]
      exact .nextSymbol hph ht hb hq hg
    · rw [txTick_enter_gap c t hph ht hb hq hg]
      exact .enterGap hph ht hb hq hg

/-! ### Symbols -/

/-- The start bit (R91). -/
theorem symbol_getLsbD_zero (k : StopBits) (d : Byte) : (symbol k d).getLsbD 0 = false := by
  simp [symbol]

/-- A symbol has no bit above its stop bits (R92, R93). -/
theorem symbol_toNat_lt (k : StopBits) (d : Byte) : (symbol k d).toNat < 2 ^ symbolLen k := by
  have hd : d.toNat < 256 := d.isLt
  cases k <;> exact Nat.or_lt_two_pow (by decide) (by simp [symbolLen, StopBits.count, Nat.shiftLeft_eq]; omega)

/-- A symbol is over once all its bits are shifted out (R36, R93). -/
theorem symbol_shiftRight_symbolLen (k : StopBits) (d : Byte) : symbol k d >>> symbolLen k = 0#16 := by
  apply BitVec.eq_of_toNat_eq
  rw [BitVec.toNat_ushiftRight]
  exact Nat.shiftRight_eq_zero _ _ (symbol_toNat_lt k d)

/-! ### TXU's invariant -/

section
variable {c : TxConfig} {t t' : Txu}

theorem Txu.inv_of_idle (hl : legalQLen c.nValues t.qlen) (hp : t.phase = .idle) (h : t.IdleOk) : t.Inv c :=
  ⟨hl, fun _ => h, by simp [hp], by simp [hp]⟩

theorem Txu.inv_of_bit (hl : legalQLen c.nValues t.qlen) (hp : t.phase = .bit) (h : t.BitOk c) : t.Inv c :=
  ⟨hl, by simp [hp], fun _ => h, by simp [hp]⟩

theorem Txu.inv_of_gap (hl : legalQLen c.nValues t.qlen) (hp : t.phase = .gap) (h : t.GapOk c) : t.Inv c :=
  ⟨hl, by simp [hp], by simp [hp], fun _ => h⟩

theorem Txu.inv_reset : Txu.reset.Inv c :=
  Txu.inv_of_idle (.inl rfl) rfl ⟨rfl, rfl, rfl, rfl, rfl⟩

/-- The byte at TX_QI on the line from its start bit on (R125). -/
theorem loadSymbol_inv {d : Byte} (hl : legalQLen c.nValues t.qlen) (hq : t.qi < t.qlen) (hd : d = t.queueByte t.qi) :
    (loadSymbol c d t).Inv c := by
  have hsl := toNat_symbolLen c.kStop
  have hsb := symbolLen_bounds c.kStop
  have hH := holdUs_pos c
  have hh := toNat_holdTicks c
  refine Txu.inv_of_bit hl rfl ⟨(symbol_getLsbD_zero _ _).symm, ?_, ?_, ?_, ?_, ?_, hq⟩
  · intro h0
    rw [loadSymbol_bitcnt] at h0
    rw [h0] at hsl
    simp at hsl
    omega
  · exact hsl.le
  · rw [loadSymbol_bitcnt, hsl, Nat.sub_self, BitVec.ushiftRight_zero]
    exact congrArg (symbol c.kStop) hd
  · intro h0
    rw [loadSymbol_timer] at h0
    rw [h0] at hh
    simp at hh
    omega
  · exact BitVec.le_refl _

/-- The last bit of a symbol shifted out (R126). -/
theorem Txu.BitOk.shreg_over (h : t.BitOk c) (hb : t.bitcnt - 1#4 = 0#4) : t.shreg >>> 1 = 0#16 := by
  obtain ⟨-, -, -, hs, -⟩ := h
  have h1 : t.bitcnt.toNat = 1 := by bv_omega
  have hsb := symbolLen_bounds c.kStop
  rw [hs, ← BitVec.shiftRight_add, h1, show symbolLen c.kStop - 1 + 1 = symbolLen c.kStop by omega,
    symbol_shiftRight_symbolLen]

/-- A tick keeps TXU's invariant. -/
theorem TickStep.inv (h : TickStep c t t') (hi : t.Inv c) : t'.Inv c := by
  obtain ⟨hl, hidle, hbit, hgap⟩ := hi
  cases h with
  | idle hp => exact ⟨hl, hidle, hbit, hgap⟩
  | wait hp ht =>
    refine ⟨hl, fun hp' => absurd hp' hp, fun hp' => ?_, fun hp' => ?_⟩
    · obtain ⟨hln, hb, hbl, hs, ht0, hth, hq⟩ := hbit hp'
      exact ⟨hln, hb, hbl, hs, ht, by dsimp only; bv_omega, hq⟩
    · obtain ⟨hln, hs, hb, ht0, htg, hq0, hq⟩ := hgap hp'
      exact ⟨hln, hs, hb, ht, by dsimp only; bv_omega, hq0, hq⟩
  | gapOver hp ht =>
    obtain ⟨-, -, -, -, -, -, hq⟩ := hgap hp
    exact loadSymbol_inv hl hq rfl
  | bitOver hp ht hb =>
    obtain ⟨hln, hb0, hbl, hs, ht0, hth, hq⟩ := hbit hp
    have hH := holdUs_pos c
    have hh := toNat_holdTicks c
    have hbn : (t.bitcnt - 1#4).toNat = t.bitcnt.toNat - 1 := by bv_omega
    have hb2 : 1 ≤ t.bitcnt.toNat := by bv_omega
    refine Txu.inv_of_bit hl hp ⟨rfl, hb, ?_, ?_, ?_, BitVec.le_refl _, hq⟩
    · dsimp only
      omega
    · dsimp only [Txu.queueByte]
      rw [hs, ← BitVec.shiftRight_add, hbn]
      congr 1
      omega
    · dsimp only
      bv_omega
  | commandOver hp ht hb hq =>
    exact Txu.inv_of_idle hl rfl ⟨rfl, (hbit hp).shreg_over hb, rfl, rfl, hq⟩
  | enterGap hp ht hb hq hg =>
    have hs := (hbit hp).shreg_over hb
    obtain ⟨-, -, -, -, -, -, hlt⟩ := hbit hp
    have hgt := toNat_gapTicks c
    refine Txu.inv_of_gap hl rfl ⟨rfl, hs, rfl, ?_, BitVec.le_refl _, ?_, ?_⟩
    · dsimp only
      bv_omega
    · dsimp only
      bv_omega
    · dsimp only
      bv_omega
  | nextSymbol hp ht hb hq hg =>
    obtain ⟨-, -, -, -, -, -, hlt⟩ := hbit hp
    exact loadSymbol_inv (t := { t with qi := t.qi + 1#5 }) hl (by dsimp only; bv_omega) rfl

/-- TX_Q holds any command's bytes (R39). -/
theorem toNat_le_of_legalQLen {n : NValues} {len : BitVec 5} (h : legalQLen n len) : len.toNat ≤ 20 := by
  have hn := count_eq n
  simp only [legalQLen, NValues.frameLen] at h
  omega

theorem txTick_inv (h : t.Inv c) : (txTick c t).Inv c := (txTick_tickStep c t).inv h

end

/-- A command's first symbol is on the line, its bytes in the queue (R129). -/
theorem start_inv (b : Byte) (rest : List Byte) (s : State)
    (hlen : (b :: rest).length = 1 ∨ (b :: rest).length = 4 ∨ (b :: rest).length = s.cfg.tx.nValues.frameLen) :
    (start (b :: rest) s).tx.Inv s.cfg.tx := by
  have hn := count_eq s.cfg.tx.nValues
  simp only [List.length_cons, NValues.frameLen] at hlen
  have hql : (BitVec.ofNat 5 (rest.length + 1)).toNat = rest.length + 1 := by
    rw [BitVec.toNat_ofNat]
    omega
  rw [start_cons]
  refine loadSymbol_inv ?_ ?_ ?_
  · simp only [legalQLen, NValues.frameLen, hql]
    omega
  · simp only [BitVec.lt_def, hql, BitVec.toNat_ofNat]
    omega
  · rw [queueByte_of_lt _ _ (by simp)]
    exact (fillQueue_get (b :: rest) s.free 0 (by simp) (by simp)).symm

/-! ### RXU's invariant -/

section
variable {n : NValues} {r : Rxu}

theorem Rxu.inv_reset : Rxu.reset.Inv n := by
  cases n <;> decide

/-- A payload byte that is not the last advances RX_CAPIDX (R166). -/
theorem Rxu.Inv.store_next (h : r.Inv n) (b : Byte) (hs : r.state = .capture) (hc : r.capidx ≠ lastCapIdx n) :
    Rxu.Inv n { r.store b with capidx := r.capidx + 1#5 } := by
  obtain ⟨h2, h1, h12, hle, hcap, hff⟩ := h
  have hlast := toNat_lastCapIdx n
  have hn := count_eq n
  refine ⟨h2, h1, h12, ?_, fun hns => absurd hs hns, hff⟩
  dsimp only [Rxu.store]
  bv_omega

theorem Rxu.resumeScan_inv : r.resumeScan.Inv n :=
  ⟨BitVec.le_refl _, BitVec.le_refl _, fun _ => rfl, BitVec.le_def.2 (Nat.zero_le _), fun _ => rfl, by simp⟩

theorem Rxu.Inv.shiftHistory (h : r.Inv n) (b : Byte) (hs : r.state ≠ .capture) : (r.shiftHistory b).Inv n := by
  obtain ⟨h2, h1, h12, hle, hcap, hff⟩ := h
  refine ⟨h1, ?_, fun he => absurd he (slotOf_ne_empty b), hle, hcap, fun hc => absurd hc hs⟩
  have hb := b.isLt
  have hsl := slotOf_toNat b
  simp only [slotOk, emptySlot, BitVec.le_def, Rxu.shiftHistory_prev1, hsl, BitVec.toNat_ofNat]
  omega

theorem Rxu.Inv.enterCapture (h : r.Inv n) (hm : r.prev2 = slotOf pre0 ∧ r.prev1 = slotOf pre1) :
    r.enterCapture.Inv n := by
  obtain ⟨h2, h1, h12, hle, hcap, hff⟩ := h
  exact ⟨h2, h1, h12, BitVec.le_def.2 (Nat.zero_le _), fun hns => absurd rfl hns, fun _ => hm⟩

theorem Rxu.Inv.stop (h : r.Inv n) : Rxu.Inv n { r with state := .stopped, capidx := 0#5 } := by
  obtain ⟨h2, h1, h12, hle, hcap, hff⟩ := h
  exact ⟨h2, h1, h12, BitVec.le_def.2 (Nat.zero_le _), fun _ => rfl, by simp⟩

end

theorem scanByte_inv (b : Byte) (s : State) (h : s.rx.Inv s.cfg.rx.nValues) (hs : s.rx.state = .scan) :
    (scanByte b s).rx.Inv s.cfg.rx.nValues := by
  by_cases hm : s.rx.prev2 = 0x0FF#9 ∧ s.rx.prev1 = 0x0FF#9 ∧ b = 0xFE#8
  · rw [scanByte_match b s hm]
    obtain ⟨h2, h1, -⟩ := hm
    exact h.enterCapture ⟨h2.trans slotOf_pre0.symm, h1.trans slotOf_pre1.symm⟩
  · rw [scanByte_shift b s hm]
    exact h.shiftHistory b (by simp [hs])

theorem captureByte_inv (b : Byte) (s : State) (h : s.rx.Inv s.cfg.rx.nValues) (hs : s.rx.state = .capture) :
    (captureByte b s).rx.Inv s.cfg.rx.nValues := by
  by_cases hc : s.rx.capidx = lastCapIdx s.cfg.rx.nValues
  · rw [captureByte_last b s hc]
    exact Rxu.resumeScan_inv
  · rw [captureByte_more b s hc]
    exact h.store_next b hs hc

/-! ### The record port -/

/-- An empty port agrees with everything (R56). -/
theorem State.portOk_of_none {s : State} (h : s.rx.recOut = none) : s.PortOk := fun hn => absurd h hn

/-- A record that is put on the port is the last one emitted, and scanning resumes (R168). -/
theorem captureByte_portOk (b : Byte) (s : State) (h : s.rx.recOut = none) : (captureByte b s).PortOk := by
  by_cases hc : s.rx.capidx = lastCapIdx s.cfg.rx.nValues
  · rw [captureByte_last b s hc]
    intro _
    simp [length_capRecord]
  · rw [captureByte_more b s hc]
    exact State.portOk_of_none h

/-! ### The operations and the step -/

/-- A command keeps the invariant: it waits, raises the event, or starts (R129). -/
theorem exec_tx_inv {i : Instr} {s t : State} (ha : i.agent = .txu) (h : exec i s = .next t)
    (hi : s.tx.Inv s.cfg.tx) : t.tx.Inv s.cfg.tx := by
  obtain ⟨-, rfl⟩ | ⟨-, ⟨op, -, rfl⟩ | ⟨b, rest, -, rfl, hlen⟩⟩ := exec_tx_next i s t ha h
  · exact hi
  · rw [raise_tx]
    exact hi
  · exact start_inv b rest s hlen

/-- A token keeps the invariant, and leaves the port empty or with the record it completed (R150). -/
theorem exec_rx_inv {i : Instr} {s t : State} (ha : i.agent = .rxu) (h : exec i s = .next t)
    (hi : s.rx.Inv s.cfg.rx.nValues) : t.rx.Inv s.cfg.rx.nValues ∧ t.PortOk := by
  obtain ⟨b, -, hs, rfl⟩ | ⟨b, -, hs, rfl⟩ | ⟨-, -, rfl⟩ | ⟨-, rfl⟩ := exec_rx_next i s t ha h
  · obtain ⟨-, -, -, -, -, -, -, -, hrec⟩ := scanByte_frame b s.dropRecord
    exact ⟨scanByte_inv b s.dropRecord hi hs, State.portOk_of_none hrec⟩
  · exact ⟨captureByte_inv b s.dropRecord hi hs, captureByte_portOk b s.dropRecord rfl⟩
  · exact ⟨Rxu.Inv.stop (r := s.dropRecord.rx) hi, State.portOk_of_none rfl⟩
  · exact ⟨hi, State.portOk_of_none rfl⟩

/-- A boundary at which no command is taken resets TXU or ticks it. -/
theorem TxIdleStep.inv {s t : State} (h : TxIdleStep s t) (hi : s.tx.Inv s.cfg.tx) : t.tx.Inv s.cfg.tx := by
  cases h with
  | reset p rest hin => exact Txu.inv_reset
  | noInput hin => exact txTick_inv hi
  | idle rest hin => exact txTick_inv hi
  | offerMissed w rest hin hb => exact txTick_inv hi
  | holdWaits w rest hin hb => exact txTick_inv hi

theorem decodeCmd_agent {n : NValues} {w : CmdWord} {i : Instr} (h : decodeCmd n w = .ok i) : i.agent = .txu := by
  obtain ⟨-, rfl⟩ := decodeCmd_ok n w i h
  exact decodeOp_agent n w

/-- Settles O54: whichever unit moves, the build is not of its side (`step_frame`). -/
theorem stepKeepsConfig : Obligations.StepKeepsConfig := by
  intro s t h
  rw [step_frame h]
  simp

/-- A boundary of TXU changes neither RXU nor the records (R209). -/
theorem step_txu_frame {s t : State} (h : step s = .next t) (ha : s.nextAgent = .txu) :
    t.rx = s.rx ∧ t.records = s.records := by
  have hf := step_frame h
  rw [ha] at hf
  rw [hf]
  exact ⟨rfl, rfl⟩

/-- An occasion of RXU does not change TXU (R209). -/
theorem step_rxu_frame {s t : State} (h : step s = .next t) (ha : s.nextAgent = .rxu) : t.tx = s.tx := by
  have hf := step_frame h
  rw [ha] at hf
  rw [hf]
  rfl

/-- What a boundary of TXU comes to (`step_cases`). -/
theorem step_txu_cases {s t : State} (h : step s = .next t) (ha : s.nextAgent = .txu) :
    TxIdleStep s t ∨
    ∃ w rest i, (s.txIn = .hold w :: rest ∨ s.txIn = .offer w :: rest) ∧ (txTick s.cfg.tx s.tx).phase = .idle ∧
      decodeCmd s.cfg.tx.nValues w = .ok i ∧
      exec i { s with sched := s.sched.tail, txIn := rest, tx := txTick s.cfg.tx s.tx } = .next t := by
  simpa [ha] using step_cases s t h

/-- What an occasion of RXU comes to (`step_cases`). -/
theorem step_rxu_cases {s t : State} (h : step s = .next t) (ha : s.nextAgent = .rxu) :
    (s.rxIn = [] ∧ t = { s with sched := s.sched.tail }) ∨
    (∃ rest, s.rxIn = .reset :: rest ∧ t = { s with sched := s.sched.tail, rxIn := rest, rx := Rxu.reset }) ∨
    ∃ tok rest, s.rxIn = .token tok :: rest ∧
      exec (decodeTok tok) { s with sched := s.sched.tail, rxIn := rest } = .next t := by
  simpa [ha] using step_cases s t h

theorem step_txu_inv {s t : State} (h : step s = .next t) (ha : s.nextAgent = .txu) (hi : s.tx.Inv s.cfg.tx) :
    t.tx.Inv s.cfg.tx := by
  obtain hs | ⟨w, rest, i, -, -, hd, he⟩ := step_txu_cases h ha
  · exact hs.inv hi
  · exact (exec_tx_inv (decodeCmd_agent hd) he (txTick_inv hi) :)

theorem step_rxu_inv {s t : State} (h : step s = .next t) (ha : s.nextAgent = .rxu) (hi : s.rx.Inv s.cfg.rx.nValues)
    (hp : s.PortOk) : t.rx.Inv s.cfg.rx.nValues ∧ t.PortOk := by
  obtain ⟨-, rfl⟩ | ⟨rest, -, rfl⟩ | ⟨tok, rest, -, he⟩ := step_rxu_cases h ha
  · exact ⟨hi, hp⟩
  · exact ⟨Rxu.inv_reset, State.portOk_of_none rfl⟩
  · exact (exec_rx_inv (decodeTok_agent tok) he hi :)

/-- Settles O52: the unit that moves keeps its invariant, and the other is not changed. -/
theorem stepKeepsInv : Obligations.StepKeepsInv := by
  intro s t ⟨htx, hrx, hport⟩ h
  have hcfg := stepKeepsConfig s t h
  cases ha : s.nextAgent with
  | txu =>
    obtain ⟨hr, hrec⟩ := step_txu_frame h ha
    refine ⟨hcfg ▸ step_txu_inv h ha htx, ?_, ?_⟩
    · rw [hcfg, hr]
      exact hrx
    · rw [State.PortOk, hcfg, hr, hrec]
      exact hport
  | rxu =>
    obtain ⟨hr, hp⟩ := step_rxu_inv h ha hrx hport
    refine ⟨?_, hcfg ▸ hr, hp⟩
    rw [hcfg, step_rxu_frame h ha]
    exact htx

/-- Settles O51: each unit's reset values meet its invariant, and the port is empty. -/
theorem resetMeetsInv : Obligations.ResetMeetsInv := fun _ =>
  ⟨Txu.inv_reset, Rxu.inv_reset, State.portOk_of_none rfl⟩

end Sys2Proof.Machine
end

section
/-! One boundary of TXU and one occasion of RXU, by what the pins carry (10_state.md rules R53 to R57,
70_reset_and_hazards.md rule R212): the converse of `step_cases`. -/

namespace Sys2Proof.Machine

section
variable {s t : State}

/-- A boundary of TXU that takes no command is over with what `TxIdleStep` says. -/
theorem fetch_of_txIdleStep (ha : s.nextAgent = .txu) (h : TxIdleStep s t) : fetch s = .done t := by
  cases h with
  | reset p rest hin =>
    simp only [fetch, ha, fetchTx, State.popSched_txIn, hin]
    rfl
  | noInput hin =>
    simp only [fetch, ha, fetchTx, State.popSched_txIn, hin]
    rw [← hin]
    rfl
  | idle rest hin =>
    simp only [fetch, ha, fetchTx, State.popSched_txIn, hin]
    rfl
  | offerMissed w rest hin hb =>
    have hr : ¬ s.popSched.tick.tx.ready = true := (ready_iff _).not.2 hb
    simp only [fetch, ha, fetchTx, State.popSched_txIn, hin, if_neg hr]
    rfl
  | holdWaits w rest hin hb =>
    have hr : ¬ s.popSched.tick.tx.ready = true := (ready_iff _).not.2 hb
    simp only [fetch, ha, fetchTx, State.popSched_txIn, hin, if_neg hr]
    rw [← hin]
    rfl

theorem step_of_txIdleStep (ha : s.nextAgent = .txu) (h : TxIdleStep s t) : step s = .next t := by
  rw [step, fetch_of_txIdleStep ha h]
  rfl

/-- With READY = 1 after the tick, the presented word is taken and what it decodes to runs (R53, R129). -/
theorem fetch_accepted {w : CmdWord} {rest : List TxInput} {i : Instr} (ha : s.nextAgent = .txu)
    (hin : s.txIn = .hold w :: rest ∨ s.txIn = .offer w :: rest) (hp : (txTick s.cfg.tx s.tx).phase = .idle)
    (hd : decodeCmd s.cfg.tx.nValues w = .ok i) :
    fetch s = .run i { s with sched := s.sched.tail, txIn := rest, tx := txTick s.cfg.tx s.tx } := by
  have hr : s.popSched.tick.tx.ready = true := (ready_iff _).2 hp
  have hw : acceptWord w { s.popSched.tick with txIn := rest } = .run i { s.popSched.tick with txIn := rest } := by
    simp [acceptWord, decode, hd]
  obtain hin | hin := hin <;>
  · simp only [fetch, ha, fetchTx, State.popSched_txIn, hin, if_pos hr, hw]
    rfl

theorem fetch_noToken (ha : s.nextAgent = .rxu) (hin : s.rxIn = []) :
    fetch s = .done { s with sched := s.sched.tail } := by
  simp only [fetch, ha, fetchRx, State.popSched_rxIn, hin]
  rw [← hin]
  rfl

theorem fetch_rxReset {rest : List RxInput} (ha : s.nextAgent = .rxu) (hin : s.rxIn = .reset :: rest) :
    fetch s = .done { s with sched := s.sched.tail, rxIn := rest, rx := Rxu.reset } := by
  simp only [fetch, ha, fetchRx, State.popSched_rxIn, hin]
  rfl

theorem fetch_token {tok : Token} {rest : List RxInput} (ha : s.nextAgent = .rxu) (hin : s.rxIn = .token tok :: rest) :
    fetch s = .run (decodeTok tok) { s with sched := s.sched.tail, rxIn := rest } := by
  simp only [fetch, ha, fetchRx, State.popSched_rxIn, hin]
  rfl

end

/-- Settles O47: each clause is one form of `TxIdleStep`. -/
theorem txBoundaryOrder : Obligations.TxBoundaryOrder := by
  intro s rest w ha
  refine ⟨fun p hin => ?_, fun hin => ?_, fun hin => ?_, fun hin hb => ?_, fun hin hb => ?_⟩
  · exact step_of_txIdleStep ha (.reset p rest hin)
  · exact step_of_txIdleStep ha (.noInput hin)
  · exact step_of_txIdleStep ha (.idle rest hin)
  · exact step_of_txIdleStep ha (.offerMissed w rest hin ((busy_iff _).1 hb))
  · exact step_of_txIdleStep ha (.holdWaits w rest hin ((busy_iff _).1 hb))

/-- Settles O48, by what the boundary comes to (`fetch_accepted`). -/
theorem stepRunsAcceptedCommand : Obligations.StepRunsAcceptedCommand := by
  intro s w rest i ha hin hr hd
  rw [step, fetch_accepted ha hin ((ready_iff _).1 hr) hd]
  rfl

/-- Settles O49, by what the occasion comes to in each case. -/
theorem rxStepRunsToken : Obligations.RxStepRunsToken := by
  intro s rest t ha
  refine ⟨fun hin => ?_, fun hin => ⟨decodeTok t, rfl, ?_⟩, fun hin => ?_⟩
  · rw [step, fetch_rxReset ha hin]
    rfl
  · rw [step, fetch_token ha hin]
    rfl
  · rw [step, fetch_noToken ha hin]
    rfl

end Sys2Proof.Machine
end

section
/-! How long a command keeps TXU busy (40_transmitter.md rules R128 and R135), and the caller that holds its command until
then (10_state.md rule R53). -/

namespace Sys2Proof.Machine

/-! ### The ticks left -/

/-- The bytes of the command behind the one at TX_QI. -/
def Txu.bytesBehind (t : Txu) : Nat := t.qlen.toNat - t.qi.toNat - 1

/-- The ticks of the command that are left when the bit or gap at hand is over. -/
def Txu.ticksBehind (c : TxConfig) (t : Txu) : Nat :=
  match t.phase with
  | .idle => 0
  | .bit => (t.bitcnt.toNat - 1) * c.holdUs + t.bytesBehind * (symbolTicks c + c.gapUs)
  | .gap => symbolTicks c + t.bytesBehind * (symbolTicks c + c.gapUs)

/-- The ticks until TXU is IDLE, if it is not reset. -/
def Txu.ticksLeft (c : TxConfig) (t : Txu) : Nat := t.timer.toNat + t.ticksBehind c

section
variable {c : TxConfig} {t t' : Txu}

theorem Txu.ticksBehind_of_idle (hp : t.phase = .idle) : t.ticksBehind c = 0 := by
  simp [Txu.ticksBehind, hp]

theorem Txu.ticksBehind_of_bit (hp : t.phase = .bit) :
    t.ticksBehind c = (t.bitcnt.toNat - 1) * c.holdUs + t.bytesBehind * (symbolTicks c + c.gapUs) := by
  simp [Txu.ticksBehind, hp]

theorem Txu.ticksBehind_of_gap (hp : t.phase = .gap) :
    t.ticksBehind c = symbolTicks c + t.bytesBehind * (symbolTicks c + c.gapUs) := by
  simp [Txu.ticksBehind, hp]

theorem symbolTicks_eq (c : TxConfig) : symbolTicks c = c.holdUs + (symbolLen c.kStop - 1) * c.holdUs := by
  have h := symbolLen_bounds c.kStop
  obtain ⟨m, hm⟩ : ∃ m, symbolLen c.kStop = m + 1 := ⟨symbolLen c.kStop - 1, by omega⟩
  rw [symbolTicks, hm, Nat.succ_mul, Nat.add_sub_cancel, Nat.add_comm]

/-- A symbol just loaded takes S ticks, and then come the bytes behind it (R133). -/
theorem ticksLeft_loadSymbol (c : TxConfig) (d : Byte) (t : Txu) :
    (loadSymbol c d t).ticksLeft c = symbolTicks c + t.bytesBehind * (symbolTicks c + c.gapUs) := by
  rw [Txu.ticksLeft, Txu.ticksBehind_of_bit rfl, loadSymbol_timer, toNat_holdTicks, loadSymbol_bitcnt, toNat_symbolLen,
    ← Nat.add_assoc, ← symbolTicks_eq]
  rfl

/-- When the byte at TX_QI is over, its successor's symbol and a gap are no longer behind (R126). -/
theorem Txu.bytesBehind_mul_of_next (h : t.qi < t.qlen) (hq : t.qi + 1#5 ≠ t.qlen) (n : Nat) :
    t.bytesBehind * n = n + Txu.bytesBehind { t with qi := t.qi + 1#5 } * n := by
  have hb : t.bytesBehind = Txu.bytesBehind { t with qi := t.qi + 1#5 } + 1 := by
    simp only [Txu.bytesBehind]
    bv_omega
  rw [hb, Nat.succ_mul, Nat.add_comm]

/-- A symbol's last bit has only the bytes behind left. -/
theorem Txu.ticksBehind_of_lastBit (hp : t.phase = .bit) (hb : t.bitcnt - 1#4 = 0#4) :
    t.ticksBehind c = t.bytesBehind * (symbolTicks c + c.gapUs) := by
  have h1 : t.bitcnt.toNat = 1 := by bv_omega
  rw [Txu.ticksBehind_of_bit hp, h1, Nat.sub_self, Nat.zero_mul, Nat.zero_add]

theorem Txu.Inv.timer_ne_zero (hi : t.Inv c) (hp : t.phase ≠ .idle) : t.timer ≠ 0#16 := by
  obtain ⟨-, -, hbit, hgap⟩ := hi
  cases hph : t.phase with
  | idle => exact absurd hph hp
  | bit =>
    obtain ⟨-, -, -, -, ht, -⟩ := hbit hph
    exact ht
  | gap =>
    obtain ⟨-, -, -, ht, -⟩ := hgap hph
    exact ht

/-- When the timer runs out, what was behind is what is left. -/
theorem TickStep.ticksBehind (h : TickStep c t t') (hi : t.Inv c) (hp : t.phase ≠ .idle) (ht : t.timer - 1#16 = 0#16) :
    t.ticksBehind c = t'.ticksLeft c := by
  obtain ⟨-, -, hbit, -⟩ := hi
  cases h with
  | idle hp' => exact absurd hp' hp
  | wait hp ht' => exact absurd ht ht'
  | gapOver hp ht => rw [Txu.ticksBehind_of_gap hp, ticksLeft_loadSymbol]
  | bitOver hp ht hb =>
    obtain ⟨-, hb0, -⟩ := hbit hp
    obtain ⟨n, hn⟩ : ∃ n, t.bitcnt.toNat = n + 2 := ⟨t.bitcnt.toNat - 2, by bv_omega⟩
    have hn' : (t.bitcnt - 1#4).toNat = n + 1 := by bv_omega
    have hmul : (n + 2 - 1) * c.holdUs = c.holdUs + (n + 1 - 1) * c.holdUs := by
      rw [Nat.add_sub_cancel, show n + 2 - 1 = n + 1 by omega, Nat.succ_mul, Nat.add_comm]
    rw [Txu.ticksLeft, Txu.ticksBehind_of_bit hp, Txu.ticksBehind_of_bit (by exact hp), hn, hn', toNat_holdTicks, hmul,
      Nat.add_assoc]
    rfl
  | commandOver hp ht hb hq =>
    obtain ⟨-, -, -, -, -, -, hlt⟩ := hbit hp
    have h0 : t.bytesBehind = 0 := by
      simp only [Txu.bytesBehind]
      bv_omega
    rw [Txu.ticksLeft, Txu.ticksBehind_of_lastBit hp hb, Txu.ticksBehind_of_idle rfl, h0, Nat.zero_mul]
    rfl
  | enterGap hp ht hb hq hg =>
    obtain ⟨-, -, -, -, -, -, hlt⟩ := hbit hp
    rw [Txu.ticksLeft, Txu.ticksBehind_of_lastBit hp hb, Txu.ticksBehind_of_gap rfl, toNat_gapTicks,
      Txu.bytesBehind_mul_of_next hlt hq, ← Nat.add_assoc, Nat.add_comm (symbolTicks c)]
    rfl
  | nextSymbol hp ht hb hq hg =>
    obtain ⟨-, -, -, -, -, -, hlt⟩ := hbit hp
    rw [ticksLeft_loadSymbol, Txu.ticksBehind_of_lastBit hp hb, Txu.bytesBehind_mul_of_next hlt hq, hg, Nat.add_zero]

/-- A tick of a busy TXU takes one from the ticks left. -/
theorem txTick_ticksLeft (hi : t.Inv c) (hp : t.phase ≠ .idle) : t.ticksLeft c = (txTick c t).ticksLeft c + 1 := by
  have ht0 := hi.timer_ne_zero hp
  by_cases ht : t.timer - 1#16 = 0#16
  · have h1 : t.timer.toNat = 1 := by bv_omega
    rw [Txu.ticksLeft, h1, (txTick_tickStep c t).ticksBehind hi hp ht, Nat.add_comm]
  · have h1 : t.timer.toNat = (t.timer - 1#16).toNat + 1 := by bv_omega
    rw [txTick_wait c t hp ht, Txu.ticksLeft, h1, Nat.add_right_comm]
    rfl

theorem Txu.Inv.ticksLeft_pos (hi : t.Inv c) (hp : t.phase ≠ .idle) : 0 < t.ticksLeft c := by
  rw [txTick_ticksLeft hi hp]
  exact Nat.succ_pos _

/-- No command takes longer than one of 20 bytes, which is all TX_Q holds (R39, R135). -/
theorem Txu.Inv.ticksLeft_le (hi : t.Inv c) : t.ticksLeft c ≤ durationTicks c 20 := by
  obtain ⟨hl, hidle, hbit, hgap⟩ := hi
  have hlen := toNat_le_of_legalQLen hl
  have hbehind : t.bytesBehind * (symbolTicks c + c.gapUs) ≤ 19 * (symbolTicks c + c.gapUs) :=
    Nat.mul_le_mul_right _ (by simp only [Txu.bytesBehind]; omega)
  have hgt := toNat_gapTicks c
  have hht := toNat_holdTicks c
  have hS := symbolTicks_eq c
  rw [durationTicks, Txu.ticksLeft]
  cases hp : t.phase with
  | idle =>
    obtain ⟨-, -, -, ht, -⟩ := hidle hp
    rw [Txu.ticksBehind_of_idle hp, ht]
    exact Nat.zero_le _
  | bit =>
    obtain ⟨-, -, hb, -, -, hth, -⟩ := hbit hp
    have hbm : (t.bitcnt.toNat - 1) * c.holdUs ≤ (symbolLen c.kStop - 1) * c.holdUs :=
      Nat.mul_le_mul_right _ (Nat.sub_le_sub_right hb 1)
    have ht : t.timer.toNat ≤ c.holdUs := hht ▸ hth
    rw [Txu.ticksBehind_of_bit hp]
    omega
  | gap =>
    obtain ⟨-, -, -, -, htg, hq0, hlt⟩ := hgap hp
    have ht : t.timer.toNat ≤ c.gapUs := hgt ▸ htg
    have hbehind' : t.bytesBehind * (symbolTicks c + c.gapUs) ≤ 18 * (symbolTicks c + c.gapUs) :=
      Nat.mul_le_mul_right _ (by simp only [Txu.bytesBehind]; bv_omega)
    rw [Txu.ticksBehind_of_gap hp]
    omega

end

/-! ### The held command -/

/-- The word stays presented through `k` steps, and the step after them runs it. -/
def State.RunsHeldAfter (s : State) (w : CmdWord) (rest : List TxInput) (i : Instr) (k : Nat) : Prop :=
  (∃ t u, run k s = .next t ∧ fetch t = .run i u ∧ u.tx.ready = true) ∧
    ∀ j ≤ k, ∃ t, run j s = .next t ∧ t.txIn = .hold w :: rest

section
variable {w : CmdWord} {rest : List TxInput} {i : Instr}

/-- A word that is held when TXU is IDLE after the tick is taken at once. -/
theorem State.runsHeldAfter_zero {s : State} (hsc : s.sched = []) (hin : s.txIn = .hold w :: rest)
    (hd : decodeCmd s.cfg.tx.nValues w = .ok i) (hp : (txTick s.cfg.tx s.tx).phase = .idle) :
    s.RunsHeldAfter w rest i 0 := by
  have ha : s.nextAgent = .txu := by simp [State.nextAgent, hsc]
  refine ⟨⟨s, _, rfl, fetch_accepted ha (.inl hin) hp hd, (ready_iff _).2 hp⟩, fun j hj => ⟨s, ?_, hin⟩⟩
  rw [Nat.le_zero.1 hj, run_zero]

theorem State.RunsHeldAfter.succ {s s' : State} {k : Nat} (h : s'.RunsHeldAfter w rest i k) (hs : step s = .next s')
    (hin : s.txIn = .hold w :: rest) : s.RunsHeldAfter w rest i (k + 1) := by
  obtain ⟨⟨t, u, ht, hf, hr⟩, hheld⟩ := h
  refine ⟨⟨t, u, (run_succ_of_step k hs).trans ht, hf, hr⟩, fun j hj => ?_⟩
  cases j with
  | zero => exact ⟨s, rfl, hin⟩
  | succ j =>
    obtain ⟨t', ht', hin'⟩ := hheld j (Nat.le_of_succ_le_succ hj)
    exact ⟨t', (run_succ_of_step j hs).trans ht', hin'⟩

/-- While TXU is busy after the tick the word waits, one tick less being left; once it is not, the word is taken (R53). -/
theorem State.Inv.runsHeldAfter {n : Nat} :
    ∀ {s : State}, s.Inv → s.sched = [] → s.txIn = .hold w :: rest → decodeCmd s.cfg.tx.nValues w = .ok i →
      s.tx.ticksLeft s.cfg.tx ≤ n → ∃ k ≤ n, s.RunsHeldAfter w rest i k := by
  induction n with
  | zero =>
    intro s hi hsc hin hd hn
    by_cases hp : s.tx.phase = .idle
    · exact ⟨0, Nat.le_refl 0, State.runsHeldAfter_zero hsc hin hd (by rw [txTick_idle _ _ hp, hp])⟩
    · exact absurd hn (Nat.not_le.2 (hi.tx.ticksLeft_pos hp))
  | succ n ih =>
    intro s hi hsc hin hd hn
    by_cases hp' : (txTick s.cfg.tx s.tx).phase = .idle
    · exact ⟨0, Nat.zero_le _, State.runsHeldAfter_zero hsc hin hd hp'⟩
    · have hp : s.tx.phase ≠ .idle := fun hp => hp' (by rw [txTick_idle _ _ hp, hp])
      have hs := step_of_txIdleStep (by simp [State.nextAgent, hsc]) (.holdWaits w rest hin hp')
      have hless := txTick_ticksLeft hi.tx hp
      obtain ⟨k, hk, hrun⟩ := ih (stepKeepsInv _ _ hi hs) (by simp [hsc]) hin hd (by dsimp only; omega)
      exact ⟨k + 1, Nat.succ_le_succ hk, hrun.succ hs hin⟩

end

/-- Settles O27, by induction over the ticks left of the command on the line (`State.Inv.runsHeldAfter`). -/
theorem heldCommandIsAccepted : Obligations.HeldCommandIsAccepted := by
  intro s w rest i hi hsc hin hd
  exact hi.runsHeldAfter hsc hin hd hi.tx.ticksLeft_le

end Sys2Proof.Machine
end

section
/-! The read-only status registers, field by field (10_state.md rules R58 to R64). -/

namespace Sys2Proof.Machine

/-! ### TXU's registers -/

/-- The four low bits of a register, each a flag, and the reserved bits above them. -/
theorem flagBits4 (b3 b2 b1 b0 : Bool) :
    let v := 0#4 ++ BitVec.ofBool b3 ++ BitVec.ofBool b2 ++ BitVec.ofBool b1 ++ BitVec.ofBool b0
    v.getLsbD 0 = b0 ∧ v.getLsbD 1 = b1 ∧ v.getLsbD 2 = b2 ∧ v.getLsbD 3 = b3 ∧ v.extractLsb' 4 4 = 0 := by
  revert b3 b2 b1 b0
  decide

theorem flagBits3 (b2 b1 b0 : Bool) :
    let v := 0#5 ++ BitVec.ofBool b2 ++ BitVec.ofBool b1 ++ BitVec.ofBool b0
    v.getLsbD 0 = b0 ∧ v.getLsbD 1 = b1 ∧ v.getLsbD 2 = b2 ∧ v.extractLsb' 3 5 = 0 := by
  revert b2 b1 b0
  decide

/-- Settles O58: the registers by their bits (`flagBits4`, `flagBits3`), and each flag by its definition. -/
theorem txStatusRegisters : Obligations.TxStatusRegisters := by
  refine ⟨fun s => ⟨_, rfl, ?_⟩, fun s => ⟨_, rfl, ?_⟩⟩
  · obtain ⟨h0, h1, h2, h3, hr⟩ := flagBits4 (s.tx.phase == .gap) s.tx.err s.tx.line s.tx.busy
    exact ⟨h0, by rw [← busy_iff, ← h0]; rfl, h1, h2, by rw [txstat, h3, beq_iff_eq], hr⟩
  · obtain ⟨h0, h1, h2, hr⟩ :=
      flagBits3 (s.cfg.tx.compUs == .ten) (s.cfg.tx.nValues == .four) (s.cfg.tx.kStop == .two)
    exact ⟨by rw [txcfg, h0, beq_iff_eq], by rw [txcfg, h1, beq_iff_eq], by rw [txcfg, h2, beq_iff_eq], hr⟩

/-! ### RXU's registers -/

theorem rxstat_fields (p2 p1 : Bool) (code : BitVec 2) :
    let v := (0#4 ++ BitVec.ofBool p2 ++ BitVec.ofBool p1 ++ code).setWidth 16
    v.extractLsb' 0 2 = code ∧ v.getLsbD 2 = p1 ∧ v.getLsbD 3 = p2 ∧ v.extractLsb' 4 12 = 0 := by
  revert p2 p1 code
  decide

theorem rxcap_fields (k : BitVec 5) :
    let v := (0#3 ++ k).setWidth 16
    v.extractLsb' 0 5 = k ∧ v.extractLsb' 5 11 = 0 := by
  revert k
  decide

theorem flagBit1 (b0 : Bool) :
    let v := (0#7 ++ BitVec.ofBool b0).setWidth 16
    v.getLsbD 0 = b0 ∧ v.extractLsb' 1 15 = 0 := by
  revert b0
  decide

theorem Rxu.p1v_iff (r : Rxu) : r.p1v = true ↔ r.prev1 ≠ emptySlot := by simp [Rxu.p1v]

theorem Rxu.p2v_iff (r : Rxu) : r.p2v = true ↔ r.prev2 ≠ emptySlot := by simp [Rxu.p2v]

theorem rxcap_of_capidx_zero {r : Rxu} (h : r.capidx = 0#5) : rxcap r = 0 := by
  rw [rxcap, h]
  decide

/-- RXSTAT.STATE is the code of RX_STATE (R61). -/
theorem rxstat_state (r : Rxu) : (rxstat r).extractLsb' 0 2 = r.state.code := BitVec.extractLsb'_append_eq_right

/-- RXHIST holds the low eight bits of each slot (R63). -/
theorem rxhist_bytes (r : Rxu) :
    (rxhist r).extractLsb' 0 8 = r.prev1.extractLsb' 0 8 ∧ (rxhist r).extractLsb' 8 8 = r.prev2.extractLsb' 0 8 := by
  have hw (p : BitVec 9) : p.setWidth 8 = p.extractLsb' 0 8 := BitVec.setWidth_eq_extractLsb' (by decide)
  rw [← hw, ← hw]
  exact ⟨BitVec.extractLsb'_append_eq_right, BitVec.extractLsb'_append_eq_left⟩

/-- Settles O59: the registers by their bits, and each flag by its definition. -/
theorem rxStatusRegisters : Obligations.RxStatusRegisters := by
  intro s
  refine ⟨⟨_, rfl, ?_⟩, ⟨_, rfl, rxcap_fields s.rx.capidx⟩, ⟨_, rfl, ?_⟩, ⟨_, rfl, ?_⟩⟩
  · obtain ⟨hst, h1, h2, hr⟩ := rxstat_fields s.rx.p2v s.rx.p1v s.rx.state.code
    refine ⟨hst.trans ?_, by rw [rxstat, h1]; exact s.rx.p1v_iff, by rw [rxstat, h2]; exact s.rx.p2v_iff, hr⟩
    cases s.rx.state <;> rfl
  · obtain ⟨hlo, hhi⟩ := rxhist_bytes s.rx
    exact ⟨hlo, hhi, fun h => by rw [hlo, h]; rfl, fun h => by rw [hhi, h]; rfl⟩
  · obtain ⟨h0, hr⟩ := flagBit1 (s.cfg.rx.nValues == .four)
    exact ⟨by rw [rxcfg, h0, beq_iff_eq], hr⟩

/-! ### After reset -/

theorem statusRegisters_reset :
    txstat Txu.reset = 0x02 ∧ rxstat Rxu.reset = 0x00 ∧ rxcap Rxu.reset = 0x00 ∧ rxhist Rxu.reset = 0x0000 := by
  decide

/-- Settles O46: each element by the definition of the reset values, the two files entry by entry. -/
theorem resetValues : Obligations.ResetValues := by
  intro c
  refine ⟨rfl, rfl, rfl, rfl, rfl, rfl, ?_, rfl, rfl, rfl, rfl, rfl, rfl, rfl, ?_, rfl, rfl, statusRegisters_reset⟩
  · intro k hk
    simp [State.resetOf, Txu.reset, hk]
  · intro k hk
    simp [State.resetOf, Rxu.reset, hk]

end Sys2Proof.Machine
end

section
/-! What the operations leave alone and what they answer (10_state.md rules R40, R53 and R56, 42_payload_extract.md rules
R166 and R176). -/

namespace Sys2Proof.Machine

/-! ### Frames of the commands and the tokens -/

/-- Only a command with bytes to send puts any in TX_Q. -/
theorem agent_of_queuedBytes {i : Instr} (h : queuedBytes i ≠ []) : i.agent = .txu ∧ ∀ op, i ≠ .reservedCmd op := by
  cases i with
  | txByte d => exact ⟨rfl, by simp⟩
  | txU32 v => exact ⟨rfl, by simp⟩
  | txCycle status values => exact ⟨rfl, by simp⟩
  | reservedCmd op => exact absurd rfl h
  | rxByte b => exact absurd rfl h
  | rxEos => exact absurd rfl h

theorem start_sameButTx (bytes : List Byte) (s : State) : s.SameButTx (start bytes s) := by
  obtain ⟨hcfg, hrx, hrec, htxIn, hrxIn, hsched, -⟩ := start_frame bytes s
  exact ⟨hcfg, hrx, hrec, htxIn, hrxIn, hsched⟩

/-- Settles O13: the command waits and nothing changes, or it starts (`start_frame`). -/
theorem txCommandFrame : Obligations.TxCommandFrame := by
  intro s t i hq h
  obtain ⟨ha, hne⟩ := agent_of_queuedBytes hq
  obtain ⟨-, rfl⟩ | ⟨-, ⟨op, hi, -⟩ | ⟨b, rest, -, rfl, -⟩⟩ := exec_tx_next i s t ha h
  · exact ⟨⟨rfl, rfl, rfl, rfl, rfl, rfl⟩, rfl⟩
  · exact absurd hi (hne op)
  · obtain ⟨-, -, -, -, -, -, herr⟩ := start_frame (b :: rest) s
    exact ⟨start_sameButTx _ s, herr⟩

/-- Settles O15: exec answers a next state (O17), and with BUSY = 1 that is the unchanged one (`exec_tx_next`). -/
theorem busyCommandWaits : Obligations.BusyCommandWaits := by
  intro s i ha hw hb
  obtain ⟨t, ht⟩ := wellFormedOperationsComplete s i hw
  obtain ⟨-, rfl⟩ | ⟨hp, -⟩ := exec_tx_next i s t ha ht
  · exact ht
  · exact absurd hp ((busy_iff _).1 hb)

/-- A token emits nothing unless it is the payload byte at the last index (R56, R166). -/
theorem exec_rx_records {i : Instr} {s t : State} (ha : i.agent = .rxu) (h : exec i s = .next t) :
    t.records = s.records ∨
    ∃ rec b, i = .rxByte b ∧ t.records = s.records ++ [rec] ∧ t.rx.recOut = some rec ∧ s.rx.state = .capture ∧
      s.rx.capidx = lastCapIdx s.cfg.rx.nValues := by
  obtain ⟨b, -, -, rfl⟩ | ⟨b, rfl, hs, rfl⟩ | ⟨-, -, rfl⟩ | ⟨-, rfl⟩ := exec_rx_next i s t ha h
  · obtain ⟨-, -, hrec, -⟩ := scanByte_frame b s.dropRecord
    exact .inl hrec
  · by_cases hc : s.rx.capidx = lastCapIdx s.cfg.rx.nValues
    · rw [captureByte_last b s.dropRecord hc]
      exact .inr ⟨_, b, rfl, rfl, rfl, hs, hc⟩
    · rw [captureByte_more b s.dropRecord hc]
      exact .inl rfl
  · exact .inl rfl
  · exact .inl rfl

/-- Settles O45: TXU emits nothing, and of RXU's steps only a token can (`exec_rx_records`). -/
theorem emitOnlyOnCompletion : Obligations.EmitOnlyOnCompletion := by
  intro s t h
  cases ha : s.nextAgent with
  | txu =>
    obtain ⟨-, hrec⟩ := step_txu_frame h ha
    exact .inl hrec
  | rxu =>
    obtain ⟨-, rfl⟩ | ⟨rest, -, rfl⟩ | ⟨tok, rest, hin, he⟩ := step_rxu_cases h ha
    · exact .inl rfl
    · exact .inl rfl
    · obtain hrec | ⟨rec, b, hb, hrec, hout, hs, hc⟩ := exec_rx_records (decodeTok_agent tok) he
      · exact .inl hrec
      · exact .inr ⟨rec, b, _, hrec, hout, hb ▸ fetch_token ha hin, hs, hc⟩

/-! ### TX_ERR -/

/-- The state with TX_ERR at `b`. -/
def State.setErr (b : Bool) (s : State) : State := { s with tx := { s.tx with err := b } }

/-- A tick neither reads nor writes TX_ERR. -/
theorem txTick_setErr (c : TxConfig) (b : Bool) (t : Txu) :
    txTick c { t with err := b } = { txTick c t with err := b } := by
  have h := txTick_tickStep c t
  generalize txTick c t = t' at h
  cases h with
  | idle hp => exact txTick_idle c _ hp
  | wait hp ht => exact txTick_wait c _ hp ht
  | gapOver hp ht => exact txTick_gap_over c _ hp ht
  | bitOver hp ht hb => exact txTick_bit_over c _ hp ht hb
  | commandOver hp ht hb hq => exact txTick_command_over c _ hp ht hb hq
  | enterGap hp ht hb hq hg => exact txTick_enter_gap c _ hp ht hb hq hg
  | nextSymbol hp ht hb hq hg => exact txTick_next_symbol c _ hp ht hb hq hg

theorem start_setErr (bytes : List Byte) (b : Bool) (s : State) :
    start bytes (s.setErr b) = (start bytes s).setErr b := by
  cases bytes with
  | nil => rfl
  | cons d rest => rfl

theorem acceptIfReady_setErr {f : State → State} {b : Bool} {s t : State}
    (hf : ∃ b', f (s.setErr b) = (f s).setErr b') (h : acceptIfReady f s = .next t) :
    ∃ b', acceptIfReady f (s.setErr b) = .next (t.setErr b') := by
  obtain ⟨hp, rfl⟩ | ⟨hp, rfl⟩ := acceptIfReady_next f s t h
  · obtain ⟨b', hf⟩ := hf
    exact ⟨b', by rw [acceptIfReady_ready f (s.setErr b) hp, hf]⟩
  · exact ⟨b, acceptIfReady_busy f _ hp⟩

/-- No command reads TX_ERR (R40). -/
theorem exec_tx_setErr {i : Instr} {s t : State} (b : Bool) (ha : i.agent = .txu) (h : exec i s = .next t) :
    ∃ b', exec i (s.setErr b) = .next (t.setErr b') := by
  cases i with
  | txByte d => exact acceptIfReady_setErr ⟨b, start_setErr _ b s⟩ h
  | txU32 v => exact acceptIfReady_setErr ⟨b, start_setErr _ b s⟩ h
  | txCycle status values =>
    simp only [exec, execTxCycle] at h
    split at h
    case isTrue hl =>
      obtain ⟨b', hb⟩ := acceptIfReady_setErr ⟨b, start_setErr _ b s⟩ h
      exact ⟨b', (if_pos hl).trans hb⟩
    case isFalse => cases h
  | reservedCmd op => exact acceptIfReady_setErr ⟨true, rfl⟩ h
  | rxByte d => cases ha
  | rxEos => cases ha

theorem State.setErr_tick (b : Bool) (s : State) :
    txTick (s.setErr b).cfg.tx (s.setErr b).tx = { txTick s.cfg.tx s.tx with err := b } :=
  txTick_setErr s.cfg.tx b s.tx

/-- No boundary at which none is taken reads it either. -/
theorem TxIdleStep.setErr {s t : State} (b : Bool) (h : TxIdleStep s t) :
    ∃ b', TxIdleStep (s.setErr b) (t.setErr b') := by
  have ht := State.setErr_tick b s
  cases h with
  | reset p rest hin => exact ⟨false, .reset p rest hin⟩
  | noInput hin => exact ⟨b, (ht ▸ TxIdleStep.noInput (s := s.setErr b) hin :)⟩
  | idle rest hin => exact ⟨b, (ht ▸ TxIdleStep.idle (s := s.setErr b) rest hin :)⟩
  | offerMissed w rest hin hb =>
    exact ⟨b, (ht ▸ TxIdleStep.offerMissed (s := s.setErr b) w rest hin (by rw [ht]; exact hb) :)⟩
  | holdWaits w rest hin hb =>
    exact ⟨b, (ht ▸ TxIdleStep.holdWaits (s := s.setErr b) w rest hin (by rw [ht]; exact hb) :)⟩

/-- Whatever TX_ERR was, the step's outcome is the same but for TX_ERR (R40). -/
theorem step_setErr {s t : State} (b : Bool) (h : step s = .next t) :
    ∃ b', step (s.setErr b) = .next (t.setErr b') := by
  cases ha : s.nextAgent with
  | rxu =>
    have hg := step_graft (u := s.setErr b) (s := s) rfl ha ha
    have hf := step_frame h
    rw [ha] at hf
    rw [h, mapNext_next] at hg
    exact ⟨b, hg.trans (by rw [hf]; rfl)⟩
  | txu =>
    obtain hs | ⟨w, rest, i, hin, hp, hd, he⟩ := step_txu_cases h ha
    · obtain ⟨b', hb⟩ := hs.setErr b
      exact ⟨b', step_of_txIdleStep ha hb⟩
    · have ht := State.setErr_tick b s
      obtain ⟨b', hb⟩ := exec_tx_setErr b (decodeCmd_agent hd) he
      have hf := fetch_accepted (s := s.setErr b) ha hin (by rw [ht]; exact hp) hd
      rw [ht] at hf
      refine ⟨b', ?_⟩
      rw [step, hf]
      exact hb

/-- A boundary without rst_tx that takes no command leaves TX_ERR alone; with it, TX_ERR is cleared (R206). -/
theorem TxIdleStep.err {s t : State} (h : TxIdleStep s t) :
    (s.txIn.head?.map TxInput.isReset = some true ∧ t.tx.err = false) ∨
      (s.txIn.head?.map TxInput.isReset ≠ some true ∧ t.tx.err = s.tx.err) := by
  obtain ⟨-, -, herr⟩ := txTick_frame s.cfg.tx s.tx
  cases h with
  | reset p rest hin => exact .inl ⟨by rw [hin]; rfl, rfl⟩
  | noInput hin => exact .inr ⟨by simp [hin], herr⟩
  | idle rest hin => exact .inr ⟨by simp [hin, TxInput.isReset], herr⟩
  | offerMissed w rest hin hb => exact .inr ⟨by simp [hin, TxInput.isReset], herr⟩
  | holdWaits w rest hin hb => exact .inr ⟨by simp [hin, TxInput.isReset], herr⟩

/-- An accepted command leaves TX_ERR alone, or it is a reserved one and sets it (R187). -/
theorem exec_tx_err {i : Instr} {s t : State} (ha : i.agent = .txu) (hp : s.tx.phase = .idle) (h : exec i s = .next t) :
    t.tx.err = true ↔ s.tx.err = true ∨ ∃ op, i = .reservedCmd op := by
  obtain ⟨hb, -⟩ | ⟨-, ⟨op, rfl, rfl⟩ | ⟨b, rest, hne, rfl, -⟩⟩ := exec_tx_next i s t ha h
  · exact absurd hp hb
  · simp
  · obtain ⟨-, -, -, -, -, -, herr⟩ := start_frame (b :: rest) s
    simp [herr, hne]

/-- A token is no command. -/
theorem fetch_ne_reservedCmd_of_rxu {s : State} (ha : s.nextAgent = .rxu) (op : Byte) (u : State) :
    fetch s ≠ .run (.reservedCmd op) u := by
  rcases hin : s.rxIn with _ | ⟨_ | tok, rest⟩
  · simp [fetch_noToken ha hin]
  · simp [fetch_rxReset ha hin]
  · rw [fetch_token ha hin]
    intro h
    have hd := decodeTok_agent tok
    rw [(Fetched.run.inj h).1] at hd
    cases hd

/-- TX_ERR after a step: cleared by rst_tx, set by an accepted reserved command, and else as it was (R40). -/
theorem step_err {s t : State} (h : step s = .next t) :
    (s.TxResetNow ∧ t.tx.err = false) ∨
    (¬ s.TxResetNow ∧ (t.tx.err = true ↔ s.tx.err = true ∨ ∃ op u, fetch s = .run (.reservedCmd op) u)) := by
  cases ha : s.nextAgent with
  | rxu =>
    refine .inr ⟨by simp [State.TxResetNow, ha], ?_⟩
    simp [step_rxu_frame h ha, fetch_ne_reservedCmd_of_rxu ha]
  | txu =>
    obtain hs | ⟨w, rest, i, hin, hp, hd, he⟩ := step_txu_cases h ha
    · obtain ⟨hres, herr⟩ | ⟨hres, herr⟩ := hs.err
      · exact .inl ⟨⟨ha, hres⟩, herr⟩
      · exact .inr ⟨fun hr => hres hr.2, by simp [herr, fetch_of_txIdleStep ha hs]⟩
    · have hres : ¬ s.TxResetNow := by
        obtain hin | hin := hin <;> simp [State.TxResetNow, hin, TxInput.isReset]
      have herr := exec_tx_err (decodeCmd_agent hd) hp he
      obtain ⟨-, -, htick⟩ := txTick_frame s.cfg.tx s.tx
      exact .inr ⟨hres, by simpa [fetch_accepted ha hin hp hd, htick] using herr⟩

/-- Settles O55: who sets and clears TX_ERR by `step_err`, that nothing reads it by `step_setErr`. -/
theorem txErrSticky : Obligations.TxErrSticky := by
  intro s t h
  refine ⟨fun hr => ?_, fun hr => ?_, fun b => ?_⟩
  · obtain ⟨-, herr⟩ | ⟨hn, -⟩ := step_err h
    · exact herr
    · exact absurd hr hn
  · obtain ⟨hn, -⟩ | ⟨-, herr⟩ := step_err h
    · exact absurd hn hr
    · exact herr
  · obtain ⟨b', hb⟩ := step_setErr b h
    exact ⟨t.setErr b', hb, rfl⟩

/-! ### RX_EOS -/

/-- Settles O34: outside STOPPED the token is end_of_stream(). -/
theorem eosStops : Obligations.EosStops := by
  intro s hs
  have hx : exec .rxEos s = .next (endOfStream s.dropRecord) := by
    cases h : s.rx.state with
    | scan => simp [exec, execRxEos, h]
    | capture => simp [exec, execRxEos, h]
    | stopped => exact absurd h hs
  refine ⟨hx, fun t ht => ?_⟩
  rw [hx] at ht
  obtain rfl := Host.Outcome.next.inj ht
  exact ⟨rfl, rxcap_of_capidx_zero rfl, rxstat_state _⟩

end Sys2Proof.Machine
end

section
/-! The decoder undoes the encoder (30_encoding.md rules R102 to R108), and a word placed on a port runs at once (log 16). -/

namespace Sys2Proof

/-! ### The round trip -/

/-- u32le undoes LE4 (R71, R167). -/
theorem u32le_le4 (v : U32) :
    u32le (v.extractLsb' 0 8) (v.extractLsb' 8 8) (v.extractLsb' 16 8) (v.extractLsb' 24 8) = v := by
  ext k hk
  -- bit k stands in byte k / 8, and the other three bytes have no bit there
  simp only [u32le, BitVec.getElem_or, BitVec.getElem_setWidth, BitVec.getElem_shiftLeft, BitVec.getLsbD_extractLsb']
  grind

/-- Value i of the bytes of a list of values (R71). -/
theorem u32At_flatMap_le4 {values : List U32} {i : Nat} {v : U32} (h : values[i]? = some v) :
    u32At (values.flatMap le4) (4 * i) = v := by
  induction values generalizing i with
  | nil => cases h
  | cons x xs ih =>
    cases i with
    | zero =>
      obtain rfl : x = v := Option.some.inj h
      exact u32le_le4 x
    | succ i => exact ih h

/-- V[i] of TX_CYCLE's word is value i (R104). -/
theorem cycleValues_eq (values : List U32) (op status : Byte) :
    (List.range values.length).map (fun i => u32At (op :: payloadBytes status values) (4 * i + 2)) = values := by
  refine List.ext_getElem (by simp) fun i hi hi' => ?_
  rw [List.getElem_map, List.getElem_range]
  exact u32At_flatMap_le4 (List.getElem?_eq_getElem hi')

theorem encodeFits (i : Instr) : Laws.EncodeFits.Statement i := by
  cases i with
  | txByte d => exact Laws.EncodeFits.txByte d
  | txU32 v => exact Laws.EncodeFits.txU32 v
  | txCycle status values => exact Laws.EncodeFits.txCycle status values
  | reservedCmd op => exact Laws.EncodeFits.reservedCmd op
  | rxByte b => exact Laws.EncodeFits.rxByte b
  | rxEos => exact Laws.EncodeFits.rxEos

/-- An operation whose word stands on the command port is TXU's, and its word has CW bits. -/
theorem fits_of_encode_cmd {n : NValues} {i : Instr} {w : CmdWord} (hw : i.wellFormed n = true)
    (he : encode n i = .cmd w) : i.agent = .txu ∧ w.length = n.cmdBytes := by
  have h := encodeFits i n hw
  rw [he] at h
  exact h

theorem decode_of_encode_cmd {n : NValues} {i : Instr} {w : CmdWord} (hw : i.wellFormed n = true)
    (he : encode n i = .cmd w) : decodeCmd n w = .ok i := by
  obtain ⟨-, hl⟩ := fits_of_encode_cmd hw he
  rw [decodeCmd_of_length n w hl]
  congr 1
  cases i with
  | txByte d =>
    obtain rfl := PortWord.cmd.inj he
    rfl
  | txU32 v =>
    obtain rfl := PortWord.cmd.inj he
    exact congrArg Instr.txU32 (u32le_le4 v)
  | txCycle status values =>
    obtain rfl := PortWord.cmd.inj he
    have hv : values.length = n.count := by simpa [Instr.wellFormed] using hw
    have hc := cycleValues_eq values opTxCycle status
    rw [hv] at hc
    exact congrArg (Instr.txCycle status) hc
  | reservedCmd op =>
    obtain rfl := PortWord.cmd.inj he
    obtain ⟨⟨h1, h2⟩, h3⟩ : (op ≠ opTxByte ∧ op ≠ opTxU32) ∧ op ≠ opTxCycle := by
      simpa [Instr.wellFormed, opTxByte, opTxU32, opTxCycle] using hw
    exact (if_neg h1).trans ((if_neg h2).trans (if_neg h3))
  | rxByte b => cases he
  | rxEos => cases he

theorem decode_of_encode_tok {n : NValues} {i : Instr} {t : Token} (he : encode n i = .tok t) : decodeTok t = i := by
  cases i with
  | txByte d => cases he
  | txU32 v => cases he
  | txCycle status values => cases he
  | reservedCmd op => cases he
  | rxByte b =>
    obtain rfl := PortWord.tok.inj he
    simp [decodeTok]
  | rxEos =>
    obtain rfl := PortWord.tok.inj he
    rfl

end Sys2Proof

namespace Sys2Proof.Machine

/-- Settles O50: the placed word is the next one on its port and decodes to the operation; a tick in IDLE does nothing. -/
theorem placedWordRuns : Obligations.PlacedWordRuns := by
  intro s i hw hr
  cases he : encode s.cfg.tx.nValues i with
  | cmd w =>
    obtain ⟨ha, -⟩ := fits_of_encode_cmd hw he
    have hp : s.tx.phase = .idle := (ready_iff _).1 (hr ha)
    have ht : txTick s.cfg.tx s.tx = s.tx := txTick_idle _ _ hp
    have hf := fetch_accepted (s := placeWord (.cmd w) s) rfl (.inl rfl) (ht.symm ▸ hp) (decode_of_encode_cmd hw he)
    rw [step, hf]
    exact congrArg (fun tx => exec i { s with tx := tx }) ht
  | tok t =>
    rw [step, fetch_token (s := placeWord (.tok t) s) rfl rfl, decode_of_encode_tok he]
    rfl

end Sys2Proof.Machine
end

section
/-! A stream of bytes on RXU's port: each byte is one step, and what the stream leaves is what its bytes leave one
after the other (10_state.md rules R55 to R57, 41_frame_sync.md rule R150). -/

namespace Sys2Proof.Machine

/-! ### Frame of a token -/

theorem State.SameButRx.refl (s : State) : s.SameButRx s := ⟨rfl, rfl, rfl, rfl, rfl, rfl⟩

theorem State.SameButRx.trans {s t u : State} (h : s.SameButRx t) (h' : t.SameButRx u) : s.SameButRx u :=
  ⟨h'.cfg.trans h.cfg, h'.tx.trans h.tx, h'.txIn.trans h.txIn, h'.rxIn.trans h.rxIn, h'.sched.trans h.sched,
    h'.free.trans h.free⟩

theorem dropRecord_sameButRx (s : State) : s.SameButRx s.dropRecord := ⟨rfl, rfl, rfl, rfl, rfl, rfl⟩

theorem endOfStream_sameButRx (s : State) : s.SameButRx (endOfStream s) := ⟨rfl, rfl, rfl, rfl, rfl, rfl⟩

theorem scanByte_sameButRx (b : Byte) (s : State) : s.SameButRx (scanByte b s) := by
  obtain ⟨hcfg, htx, -, htxIn, hrxIn, hsched, hfree, -⟩ := scanByte_frame b s
  exact ⟨hcfg, htx, htxIn, hrxIn, hsched, hfree⟩

theorem captureByte_sameButRx (b : Byte) (s : State) : s.SameButRx (captureByte b s) := by
  obtain ⟨hcfg, htx, htxIn, hrxIn, hsched, hfree⟩ := captureByte_frame b s
  exact ⟨hcfg, htx, htxIn, hrxIn, hsched, hfree⟩

/-- Settles O36: the token clears the port, and then scans, captures or stops RXU (`exec_rx_next`); none of these leaves
RXU's side. -/
theorem tokenFrame : Obligations.TokenFrame := by
  intro s t i ha h
  have hdrop := dropRecord_sameButRx s
  obtain ⟨b, -, -, rfl⟩ | ⟨b, -, -, rfl⟩ | ⟨-, -, rfl⟩ | ⟨-, rfl⟩ := exec_rx_next i s t ha h
  · exact hdrop.trans (scanByte_sameButRx b _)
  · exact hdrop.trans (captureByte_sameButRx b _)
  · exact hdrop.trans (endOfStream_sameButRx _)
  · exact hdrop

/-! ### The state RX_BYTE leaves -/

/-- The state RX_BYTE leaves (R150). -/
def State.receive (s : State) (b : Byte) : State :=
  match s.rx.state with
  | .scan => scanByte b s.dropRecord
  | .capture => captureByte b s.dropRecord
  | .stopped => s.dropRecord

theorem exec_rxByte (b : Byte) (s : State) : exec (.rxByte b) s = .next (s.receive b) := by
  cases hs : s.rx.state <;> simp [exec, execRxByte, State.receive, hs]

section
variable {s : State}

/-- A byte that completes the preamble (R152, R154). -/
theorem receive_match {b : Byte} (hs : s.rx.state = .scan)
    (hm : s.rx.prev2 = 0x0FF#9 ∧ s.rx.prev1 = 0x0FF#9 ∧ b = 0xFE#8) :
    s.receive b = { s with rx := s.dropRecord.rx.enterCapture } := by
  have hscan := scanByte_match b s.dropRecord hm
  simpa [State.receive, hs] using hscan

/-- Any other byte in SCAN (R153). -/
theorem receive_shift {b : Byte} (hs : s.rx.state = .scan)
    (hm : ¬(s.rx.prev2 = 0x0FF#9 ∧ s.rx.prev1 = 0x0FF#9 ∧ b = 0xFE#8)) :
    s.receive b = { s with rx := s.dropRecord.rx.shiftHistory b } := by
  have hscan := scanByte_shift b s.dropRecord hm
  simpa [State.receive, hs] using hscan

/-- No byte but FE completes a preamble. -/
theorem receive_shift_of_ne {b : Byte} (hs : s.rx.state = .scan) (hb : b ≠ 0xFE#8) :
    s.receive b = { s with rx := s.dropRecord.rx.shiftHistory b } :=
  receive_shift hs (fun ⟨_, _, hfe⟩ => hb hfe)

theorem receive_of_capture (hs : s.rx.state = .capture) (b : Byte) : s.receive b = captureByte b s.dropRecord := by
  simp [State.receive, hs]

theorem receive_of_stopped (hs : s.rx.state = .stopped) (b : Byte) : s.receive b = s.dropRecord := by
  simp [State.receive, hs]

end

/-- RX_BYTE does the same whatever tokens wait behind it. -/
theorem receive_withTokens (is : List Instr) (s : State) (b : Byte) :
    (s.withTokens is).receive b = (s.receive b).withTokens is := by
  cases hs : s.rx.state with
  | scan =>
    by_cases hm : s.rx.prev2 = 0x0FF#9 ∧ s.rx.prev1 = 0x0FF#9 ∧ b = 0xFE#8
    · rw [receive_match hs hm, receive_match (s := s.withTokens is) hs hm]
      rfl
    · rw [receive_shift hs hm, receive_shift (s := s.withTokens is) hs hm]
      rfl
  | capture =>
    rw [receive_of_capture hs, receive_of_capture (s := s.withTokens is) hs]
    by_cases hc : s.rx.capidx = lastCapIdx s.cfg.rx.nValues
    · rw [captureByte_last b s.dropRecord hc, captureByte_last b (s.withTokens is).dropRecord hc]
      rfl
    · rw [captureByte_more b s.dropRecord hc, captureByte_more b (s.withTokens is).dropRecord hc]
      rfl
  | stopped =>
    rw [receive_of_stopped hs, receive_of_stopped (s := s.withTokens is) hs]
    rfl

/-- The next step takes the first of the tokens, and the others wait. -/
theorem step_withTokens_rxByte (b : Byte) (is : List Instr) (s : State) :
    step (s.withTokens (.rxByte b :: is)) = .next ((s.receive b).withTokens is) := by
  -- the first token is a word placed on the port of the state that holds the others
  have hplaced := placedWordRuns (s.withTokens is) (.rxByte b) rfl (fun h => by cases h)
  rw [exec_rxByte, receive_withTokens] at hplaced
  exact hplaced

/-! ### Streams of bytes -/

/-- The state these bytes leave, one RX_BYTE for each. -/
def State.receiveAll (s : State) (bytes : List Byte) : State := bytes.foldl State.receive s

@[simp] theorem receiveAll_nil (s : State) : s.receiveAll [] = s := rfl

@[simp] theorem receiveAll_cons (b : Byte) (bytes : List Byte) (s : State) :
    s.receiveAll (b :: bytes) = (s.receive b).receiveAll bytes := rfl

@[simp] theorem receiveAll_append (xs ys : List Byte) (s : State) :
    s.receiveAll (xs ++ ys) = (s.receiveAll xs).receiveAll ys := List.foldl_append

/-- As many steps as there are bytes leave what `receiveAll` says, with the tokens behind them still to come (R57). -/
theorem run_rxs_append (bytes : List Byte) (is : List Instr) (s : State) :
    run bytes.length (s.withTokens (rxs bytes ++ is)) = .next ((s.receiveAll bytes).withTokens is) := by
  induction bytes generalizing s with
  | nil => rfl
  | cons b bytes ih =>
    have hstep := step_withTokens_rxByte b (rxs bytes ++ is) s
    exact (run_succ_of_step _ hstep).trans (ih (s.receive b))

theorem run_rxs (bytes : List Byte) (s : State) :
    run bytes.length (s.withTokens (rxs bytes)) = .next (s.receiveAll bytes) := by
  have hrun := run_rxs_append bytes [] s
  rwa [List.append_nil] at hrun

/-- Fewer steps leave what the first bytes leave. -/
theorem run_rxs_take {k : Nat} {bytes : List Byte} (hk : k ≤ bytes.length) (s : State) :
    run k (s.withTokens (rxs bytes)) = .next ((s.receiveAll (bytes.take k)).withTokens (rxs (bytes.drop k))) := by
  have hrun := run_rxs_append (bytes.take k) (rxs (bytes.drop k)) s
  rwa [rxs, rxs, ← List.map_append, List.take_append_drop, List.length_take_of_le hk] at hrun

theorem receive_sameButRx (s : State) (b : Byte) : s.SameButRx (s.receive b) := tokenFrame s _ _ rfl (exec_rxByte b s)

theorem receiveAll_sameButRx (bytes : List Byte) (s : State) : s.SameButRx (s.receiveAll bytes) := by
  induction bytes generalizing s with
  | nil => exact .refl s
  | cons b bytes ih => exact (receive_sameButRx s b).trans (ih (s.receive b))

/-- Records are only appended (R56). -/
theorem receiveAll_records_prefix (bytes : List Byte) (s : State) : s.records <+: (s.receiveAll bytes).records := by
  induction bytes generalizing s with
  | nil => exact List.prefix_rfl
  | cons b bytes ih =>
    refine List.IsPrefix.trans ?_ (ih (s.receive b))
    obtain hrec | ⟨rec, -, -, hrec, -⟩ := exec_rx_records rfl (exec_rxByte b s)
    · exact hrec ▸ List.prefix_rfl
    · exact hrec ▸ List.prefix_append s.records [rec]

/-- A stream that emits no record has emitted none after its first bytes. -/
theorem receiveAll_take_records {bytes : List Byte} {s : State} (h : (s.receiveAll bytes).records = s.records)
    (k : Nat) :
    (s.receiveAll (bytes.take k)).records = s.records := by
  have hbefore := receiveAll_records_prefix (bytes.take k) s
  have hafter := receiveAll_records_prefix (bytes.drop k) (s.receiveAll (bytes.take k))
  rw [← receiveAll_append, List.take_append_drop, h] at hafter
  exact hafter.eq_of_length_le hbefore.length_le

end Sys2Proof.Machine
end

section
/-! A frame on RXU's port: the preamble, the payload byte by byte, and the record of a whole payload (20_memory.md rule
R85, 41_frame_sync.md rules R152 to R154, 42_payload_extract.md rules R166 to R172). -/

namespace Sys2Proof.Machine

/-! ### The preamble -/

/-- FF FF FE in SCAN enters CAPTURE, whatever the history: neither FF is the last byte of a match, and the two of them
fill the history for FE (R152 to R154). -/
theorem receiveAll_preamble {s : State} (hs : s.rx.state = .scan) :
    s.receiveAll preamble =
      { s with
        rx :=
          { s.rx with state := .capture, prev2 := 0x0FF#9, prev1 := 0x0FF#9, capidx := 0#5, recOut := none } } := by
  have h0 : pre0 ≠ 0xFE#8 := by decide
  have h1 : pre1 ≠ 0xFE#8 := by decide
  rw [preamble, receiveAll_cons, receive_shift_of_ne hs h0, receiveAll_cons, receive_shift_of_ne (by exact hs) h1,
    receiveAll_cons, receive_match (b := pre2) (by exact hs) ⟨slotOf_pre0, slotOf_pre1, rfl⟩]
  rfl

/-! ### The payload -/

/-- RXU has captured exactly these payload bytes so far (R44, R45). -/
structure Rxu.Captured (bytes : List Byte) (r : Rxu) : Prop where
  state : r.state = .capture
  capidx : r.capidx.toNat = bytes.length
  capbuf : ∀ k < bytes.length, r.capbuf[k]? = bytes[k]?

theorem captured_of_preamble {s : State} (hs : s.rx.state = .scan) : (s.receiveAll preamble).rx.Captured [] := by
  rw [receiveAll_preamble hs]
  exact ⟨rfl, rfl, fun k hk => absurd hk (Nat.not_lt_zero k)⟩

/-- RX_CAPBUF once a byte is stored behind those captured (R166). -/
theorem Rxu.Captured.store {bytes : List Byte} {r : Rxu} (h : r.Captured bytes) (h17 : bytes.length < 17) (b : Byte) :
    ∀ k < (bytes ++ [b]).length, (r.store b).capbuf[k]? = (bytes ++ [b])[k]? := by
  intro k hk
  rw [List.length_append, List.length_singleton] at hk
  rw [Rxu.store_capbuf, h.capidx, Vector.getElem?_setIfInBounds]
  by_cases hlast : bytes.length = k
  · subst hlast
    simp [h17]
  · rw [if_neg hlast, h.capbuf k (by omega), List.getElem?_append_left (by omega)]

section
variable {n : NValues} {bytes : List Byte} {s : State}

/-- A byte that is not the last of the payload is captured, and emits nothing (R166). -/
theorem receive_captured (hn : s.cfg.rx.nValues = n) (h : s.rx.Captured bytes) (hl : bytes.length < 4 * n.count)
    (b : Byte) :
    (s.receive b).rx.Captured (bytes ++ [b]) ∧ (s.receive b).records = s.records := by
  subst hn
  have hlast := toNat_lastCapIdx s.cfg.rx.nValues
  have hcount := count_eq s.cfg.rx.nValues
  have hidx := h.capidx
  have hne : s.rx.capidx ≠ lastCapIdx s.cfg.rx.nValues := fun he => by rw [he] at hidx; omega
  rw [receive_of_capture h.state, captureByte_more b s.dropRecord hne]
  refine ⟨⟨h.state, ?_, h.store (by omega) b⟩, rfl⟩
  rw [List.length_append, List.length_singleton, ← hidx]
  dsimp only [State.dropRecord_rx]
  bv_omega

/-- So for any number of bytes that ends before the last of the payload. -/
theorem receiveAll_captured (hn : s.cfg.rx.nValues = n) (h : s.rx.Captured bytes) (more : List Byte)
    (hl : bytes.length + more.length ≤ 4 * n.count) :
    (s.receiveAll more).rx.Captured (bytes ++ more) ∧ (s.receiveAll more).records = s.records := by
  induction more generalizing bytes s with
  | nil => exact ⟨(List.append_nil bytes).symm ▸ h, rfl⟩
  | cons b more ih =>
    rw [List.length_cons] at hl
    obtain ⟨hb, hrec⟩ := receive_captured hn h (by omega) b
    have hn' : (s.receive b).cfg.rx.nValues = n := by rw [(receive_sameButRx s b).cfg, hn]
    obtain ⟨hmore, hrec'⟩ := ih hn' hb (by rw [List.length_append, List.length_singleton]; omega)
    rw [List.append_assoc] at hmore
    exact ⟨hmore, hrec'.trans hrec⟩

/-! ### The record of a payload -/

/-- From `s` to `t` exactly this record is emitted; it is on the port of `t`, where RXU scans with an empty history
(R56, R168). -/
structure State.Emits (rec : Record) (s t : State) : Prop where
  records : t.records = s.records ++ [rec]
  recOut : t.rx.recOut = some rec
  state : t.rx.state = .scan
  prev2 : t.rx.prev2 = emptySlot
  prev1 : t.rx.prev1 = emptySlot
  capidx : t.rx.capidx = 0#5

theorem capRecord_values_getElem? (n : NValues) (buf : Vector Byte 17) (i : Fin 4) (hi : i.val < n.count) :
    (capRecord n buf).values[i.val]? = some (capValue buf i) := by
  cases n with
  | three =>
    match i with
    | 0 | 1 | 2 => rfl
    | 3 => exact absurd hi (by decide)
  | four =>
    match i with
    | 0 | 1 | 2 | 3 => rfl

/-- A byte of RX_CAPBUF, where the buffer holds the bytes of a list. -/
theorem capByte_eq_byteAt {buf : Vector Byte 17} {w : List Byte} {k : Fin 17} (hk : k.val < w.length)
    (h : buf[k.val]? = w[k.val]?) : capByte buf k = byteAt w k := by
  rw [List.getElem?_eq_getElem hk, Vector.getElem?_eq_getElem k.isLt] at h
  rw [byteAt_eq w k _ (List.getElem?_eq_getElem hk)]
  exact Option.some.inj h

/-- Value i of RX_CAPBUF stands in bytes 4i + 1 to 4i + 4 (R171). -/
theorem capValue_eq_u32At {buf : Vector Byte 17} {w : List Byte} (h : ∀ k < w.length, buf[k]? = w[k]?) {i : Fin 4}
    (hi : 4 * i.val + 4 < w.length) : capValue buf i = u32At w (4 * i.val + 1) := by
  have hbyte (k : Fin 17) (hk : k.val ≤ 4 * i.val + 4) : capByte buf k = byteAt w k :=
    capByte_eq_byteAt (by omega) (h k (by omega))
  rw [capValue, hbyte _ (by dsimp only; omega), hbyte _ (by dsimp only; omega), hbyte _ (by dsimp only; omega),
    hbyte _ (by dsimp only; omega), u32At]
  simp only [Nat.add_comm _ (4 * i.val)]

/-- The record of a buffer that holds a payload is that payload's status and values (R170, R171). -/
theorem capRecord_eq {buf : Vector Byte 17} {status : Byte} {values : List U32} (hv : values.length = n.count)
    (h : ∀ k < (payloadBytes status values).length, buf[k]? = (payloadBytes status values)[k]?) :
    capRecord n buf = ⟨status, values⟩ := by
  have hcount := count_eq n
  have hlen := length_payloadBytes status values
  have hstatus : (capRecord n buf).status = status :=
    capByte_eq_byteAt (k := 0) (by rw [hlen]; omega) (h 0 (by omega))
  have hvalues : (capRecord n buf).values = values := by
    refine List.ext_getElem ((length_capRecord n buf).trans hv.symm) fun i hi hi' => ?_
    have hin : i < n.count := hv ▸ hi'
    have hget := capRecord_values_getElem? n buf ⟨i, by omega⟩ hin
    rw [capValue_eq_u32At h (by rw [hlen]; dsimp only; omega), List.getElem?_eq_getElem hi] at hget
    exact (Option.some.inj hget).trans (u32At_flatMap_le4 (List.getElem?_eq_getElem hi'))
  exact congrArg₂ Record.mk hstatus hvalues

/-- The last byte of a payload emits its record (R166, R168). -/
theorem receive_emits {status b : Byte} {values : List U32} (hn : s.cfg.rx.nValues = n) (hv : values.length = n.count)
    (h : s.rx.Captured bytes) (hp : bytes ++ [b] = payloadBytes status values) :
    State.Emits ⟨status, values⟩ s (s.receive b) := by
  subst hn
  have hcount := count_eq s.cfg.rx.nValues
  have hlen : bytes.length = 4 * s.cfg.rx.nValues.count := by
    have hl := congrArg List.length hp
    rw [List.length_append, List.length_singleton, length_payloadBytes] at hl
    omega
  have hlast : s.rx.capidx = lastCapIdx s.cfg.rx.nValues :=
    BitVec.eq_of_toNat_eq (by rw [h.capidx, hlen, toNat_lastCapIdx])
  have hstore := h.store (by omega) b
  rw [hp] at hstore
  rw [receive_of_capture h.state, captureByte_last b s.dropRecord hlast]
  have hrec := capRecord_eq hv hstore
  exact ⟨congrArg (fun rec => s.records ++ [rec]) hrec, congrArg some hrec, rfl, rfl, rfl, rfl⟩

end

/-! ### The frame -/

/-- A payload is 4·N_VALUES bytes and one more (R165). -/
theorem payloadBytes_eq_concat (status : Byte) (values : List U32) :
    ∃ init b, payloadBytes status values = init ++ [b] ∧ init.length = 4 * values.length := by
  obtain ⟨init, b, hp⟩ := (List.eq_nil_or_concat' (payloadBytes status values)).resolve_left (List.cons_ne_nil status _)
  have hl := congrArg List.length hp
  rw [length_payloadBytes, List.length_append, List.length_singleton] at hl
  exact ⟨init, b, hp, by omega⟩

/-- RXU, scanning with any history, emits nothing before the last byte of a frame, and its record there: the preamble
starts the capture, all the payload but its last byte is captured, and the last byte completes it (R85). -/
theorem receiveAll_frame {s : State} {status : Byte} {values : List U32} (hs : s.rx.state = .scan)
    (hv : values.length = s.cfg.rx.nValues.count) :
    (∀ k < (frameBytes status values).length, (s.receiveAll ((frameBytes status values).take k)).records = s.records) ∧
      State.Emits ⟨status, values⟩ s (s.receiveAll (frameBytes status values)) := by
  obtain ⟨init, b, hp, hinit⟩ := payloadBytes_eq_concat status values
  have hframe : frameBytes status values = (preamble ++ init) ++ [b] := by
    rw [List.append_assoc, ← hp]
    rfl
  have hcfg (bytes : List Byte) : (s.receiveAll bytes).cfg.rx.nValues = s.cfg.rx.nValues := by
    rw [(receiveAll_sameButRx bytes s).cfg]
  obtain ⟨hcap, hrec⟩ := receiveAll_captured (hcfg preamble) (captured_of_preamble hs) init
    (by rw [List.length_nil, hinit, hv, Nat.zero_add])
  rw [← receiveAll_append] at hcap hrec
  have hnone : (s.receiveAll (preamble ++ init)).records = s.records := by rw [hrec, receiveAll_preamble hs]
  rw [hframe]
  refine ⟨fun k hk => ?_, ?_⟩
  · rw [List.length_append, List.length_singleton] at hk
    rw [List.take_append_of_le_length (by omega)]
    exact receiveAll_take_records hnone k
  · have hemits := receive_emits (hcfg _) hv hcap hp.symm
    rw [receiveAll_append]
    exact ⟨hnone ▸ hemits.records, hemits.recOut, hemits.state, hemits.prev2, hemits.prev1, hemits.capidx⟩

/-- Settles O39: TX_CYCLE queues the frame of its record, and the run receives the frame's bytes (`receiveAll_frame`). -/
theorem linkRoundTrip : Obligations.LinkRoundTrip := by
  intro s status values hs hv
  obtain ⟨hbefore, hemits⟩ := receiveAll_frame (status := status) hs hv
  refine ⟨fun k hk => ⟨_, run_rxs_take (Nat.le_of_lt hk) s, hbefore k hk⟩, ?_⟩
  exact ⟨_, run_rxs (frameBytes status values) s, hemits.records, hemits.recOut, hemits.state, hemits.prev2,
    hemits.prev1, hemits.capidx, (receiveAll_sameButRx _ s).tx⟩

end Sys2Proof.Machine
end

section
/-! The words of the command port bit by bit (30_encoding.md rules R91 to R109): a word as a number, the bytes an opcode
reads, the frame by offset, and the levels of a symbol. -/

namespace Sys2Proof

/-- Settles O1, port by port: `decode_of_encode_cmd` for a command's word, `decode_of_encode_tok` for a token. -/
theorem decodeEncodeRoundTrip : Obligations.DecodeEncodeRoundTrip := by
  intro n i hw
  cases he : encode n i with
  | cmd w => exact decode_of_encode_cmd hw he
  | tok t => exact congrArg Except.ok (decode_of_encode_tok he)

/-! ### The decoder, opcode by opcode -/

section
variable {n : NValues} {w : CmdWord}

theorem decodeOp_of_txByte (h : byteAt w 0 = opTxByte) : decodeOp n w = .txByte (byteAt w 1) := if_pos h

theorem decodeOp_of_txU32 (h : byteAt w 0 = opTxU32) : decodeOp n w = .txU32 (u32At w 1) := by
  have h1 : byteAt w 0 ≠ opTxByte := by rw [h]; decide
  rw [decodeOp, if_neg h1, if_pos h]

theorem decodeOp_of_txCycle (h : byteAt w 0 = opTxCycle) :
    decodeOp n w = .txCycle (byteAt w 1) ((List.range n.count).map fun i => u32At w (4 * i + 2)) := by
  have h1 : byteAt w 0 ≠ opTxByte := by rw [h]; decide
  have h2 : byteAt w 0 ≠ opTxU32 := by rw [h]; decide
  rw [decodeOp, if_neg h1, if_neg h2, if_pos h]

theorem decodeOp_of_reserved (h1 : byteAt w 0 ≠ opTxByte) (h2 : byteAt w 0 ≠ opTxU32) (h3 : byteAt w 0 ≠ opTxCycle) :
    decodeOp n w = .reservedCmd (byteAt w 0) := by
  rw [decodeOp, if_neg h1, if_neg h2, if_neg h3]

theorem getElem?_eq_byteAt {k : Nat} (hk : k < w.length) : w[k]? = some (byteAt w k) := by
  simp [byteAt, hk]

theorem byteAt_congr {w' : CmdWord} {k : Nat} (h : w[k]? = w'[k]?) : byteAt w k = byteAt w' k := by
  simp [byteAt, h]

end

/-- CW is 16 + 32·N_VALUES bits, in whole bytes (R100). -/
theorem eight_mul_cmdBytes (n : NValues) : 8 * n.cmdBytes = 16 + 32 * n.count := by
  rw [NValues.cmdBytes]
  omega

/-- Settles O5: the operation is settled by its opcode (`decodeOp_cases`), and by the bytes the opcode reads. -/
theorem ignoredBitsHaveNoEffect : Obligations.IgnoredBitsHaveNoEffect := by
  refine ⟨fun n w w' hw hw' hop hcycle hbyte hword => ?_, fun n t t' ht ht' => ?_⟩
  · have hop' : byteAt w' 0 = byteAt w 0 := (byteAt_congr hop).symm
    have hget : w[0]? = some (byteAt w 0) := getElem?_eq_byteAt (by rw [hw, NValues.cmdBytes]; omega)
    rw [decode, decode, decodeCmd_of_length n w hw, decodeCmd_of_length n w' hw']
    congr 1
    obtain ⟨h0, h⟩ | ⟨h0, h⟩ | ⟨h0, -⟩ | ⟨⟨h1, h2, h3⟩, h⟩ := decodeOp_cases n w
    · rw [h, decodeOp_of_txByte (hop'.trans h0), byteAt_congr (hbyte (hget.trans (congrArg some h0)))]
    · have hk (k : Nat) (h1 : 1 ≤ k) (h4 : k ≤ 4) : byteAt w k = byteAt w' k :=
        byteAt_congr (hword (hget.trans (congrArg some h0)) k h1 h4)
      rw [h, decodeOp_of_txU32 (hop'.trans h0), u32At, u32At, hk 1 (by omega) (by omega), hk 2 (by omega) (by omega),
        hk 3 (by omega) (by omega), hk 4 (by omega) (by omega)]
    · exact absurd (hget.trans (congrArg some h0)) hcycle
    · rw [h, decodeOp_of_reserved (hop' ▸ h1) (hop' ▸ h2) (hop' ▸ h3), hop']
  · simp only [decode, decodeTok, ht, ht', if_true]

/-! ### A word as a number -/

theorem byteAt_bytesOfNat {count k : Nat} (W : Nat) (hk : k < count) :
    byteAt (bytesOfNat count W) k = BitVec.ofNat 8 (W >>> (8 * k)) := by
  rw [byteAt_eq _ _ _ (bytesOfNat_get count W k hk), Nat.shiftRight_eq_div_pow, Nat.pow_mul]

/-- Byte j of the 32 bits from bit `s` on. -/
theorem extractLsb'_ofNat_shiftRight (W s : Nat) {j : Nat} (hj : j < 4) :
    (BitVec.ofNat 32 (W >>> s)).extractLsb' (8 * j) 8 = BitVec.ofNat 8 (W >>> (s + 8 * j)) := by
  apply BitVec.eq_of_getLsbD_eq
  intro i hi
  have h32 : 8 * j + i < 32 := by omega
  simp only [BitVec.getLsbD_extractLsb', BitVec.getLsbD_ofNat, Nat.testBit_shiftRight, hi, h32, Nat.add_assoc,
    decide_true, Bool.true_and]

/-- The four bytes from byte k on are the 32 bits from bit 8k on (R100). -/
theorem u32At_bytesOfNat {count k : Nat} (W : Nat) (hk : k + 4 ≤ count) :
    u32At (bytesOfNat count W) k = BitVec.ofNat 32 (W >>> (8 * k)) := by
  have hbyte (j : Nat) (hj : j < 4) :
      byteAt (bytesOfNat count W) (k + j) = (BitVec.ofNat 32 (W >>> (8 * k))).extractLsb' (8 * j) 8 := by
    rw [extractLsb'_ofNat_shiftRight W _ hj, byteAt_bytesOfNat W (by omega), Nat.mul_add]
  have h0 := hbyte 0 (by omega)
  rw [Nat.add_zero] at h0
  rw [u32At, h0, hbyte 1 (by omega), hbyte 2 (by omega), hbyte 3 (by omega)]
  exact u32le_le4 _

/-- The opcode byte as a number (R101). -/
theorem byteAt_zero_bytesOfNat_iff {count : Nat} (W : Nat) (hc : 0 < count) (b : Byte) :
    byteAt (bytesOfNat count W) 0 = b ↔ W % 256 = b.toNat := by
  rw [byteAt_bytesOfNat W hc, ← BitVec.toNat_inj, BitVec.toNat_ofNat]
  rfl

/-- The command decoder on the word of a number (R108). -/
theorem decodeOp_bytesOfNat (n : NValues) (W : Nat) :
    decodeOp n (bytesOfNat n.cmdBytes W) =
      if W % 256 = 1 then .txByte (BitVec.ofNat 8 (W >>> 8))
      else if W % 256 = 2 then .txU32 (BitVec.ofNat 32 (W >>> 8))
      else if W % 256 = 3 then
        .txCycle (BitVec.ofNat 8 (W >>> 8)) ((List.range n.count).map fun i => BitVec.ofNat 32 (W >>> (32 * i + 16)))
      else .reservedCmd (BitVec.ofNat 8 W) := by
  have hcount := count_eq n
  have hbytes : n.cmdBytes = 2 + 4 * n.count := rfl
  have hop := byteAt_zero_bytesOfNat_iff (count := n.cmdBytes) W (by omega)
  have hdata : byteAt (bytesOfNat n.cmdBytes W) 1 = BitVec.ofNat 8 (W >>> 8) := byteAt_bytesOfNat W (by omega)
  have hword : u32At (bytesOfNat n.cmdBytes W) 1 = BitVec.ofNat 32 (W >>> 8) := u32At_bytesOfNat W (by omega)
  split
  next h1 => rw [decodeOp_of_txByte ((hop opTxByte).2 h1), hdata]
  next h1 =>
    split
    next h2 => rw [decodeOp_of_txU32 ((hop opTxU32).2 h2), hword]
    next h2 =>
      split
      next h3 =>
        rw [decodeOp_of_txCycle ((hop opTxCycle).2 h3), hdata]
        refine congrArg _ (List.map_congr_left fun i hi => ?_)
        have hi' := List.mem_range.1 hi
        rw [u32At_bytesOfNat W (by omega), show 8 * (4 * i + 2) = 32 * i + 16 by omega]
      next h3 =>
        rw [decodeOp_of_reserved ((hop opTxByte).not.2 h1) ((hop opTxU32).not.2 h2) ((hop opTxCycle).not.2 h3)]
        exact congrArg _ (byteAt_bytesOfNat W (by omega))

/-- The number of a word, byte 0 being its least significant (R100). -/
def natOfBytes (w : CmdWord) : Nat := Nat.ofDigits 256 (w.map BitVec.toNat)

theorem natOfBytes_lt (w : CmdWord) : natOfBytes w < 2 ^ (8 * w.length) := by
  have hlt : natOfBytes w < 256 ^ (w.map BitVec.toNat).length :=
    Nat.ofDigits_lt_base_pow_length (by decide) (List.forall_mem_map.2 fun b _ => b.isLt)
  rwa [List.length_map, show 256 = 2 ^ 8 from rfl, ← Nat.pow_mul] at hlt

theorem bytesOfNat_natOfBytes (w : CmdWord) : bytesOfNat w.length (natOfBytes w) = w := by
  induction w with
  | nil => rfl
  | cons b w ih =>
    have hb := b.isLt
    have hval : natOfBytes (b :: w) = b.toNat + 256 * natOfBytes w := Nat.ofDigits_cons
    have hlow : BitVec.ofNat 8 (natOfBytes (b :: w)) = b := by
      apply BitVec.eq_of_toNat_eq
      rw [BitVec.toNat_ofNat, hval]
      omega
    have hhigh : natOfBytes (b :: w) / 256 = natOfBytes w := by omega
    rw [List.length_cons, bytesOfNat, hlow, hhigh, ih]

/-- Settles O3: the words of numbers by `decodeOp_bytesOfNat`, every word being one by `bytesOfNat_natOfBytes`. -/
theorem decodeReadsBits : Obligations.DecodeReadsBits := by
  intro n
  refine ⟨fun W _ => ?_, fun w hw => ⟨natOfBytes w, hw ▸ natOfBytes_lt w, ?_⟩, fun t => rfl⟩
  · rw [decode, decodeCmd_of_length n _ (length_bytesOfNat _ W), decodeOp_bytesOfNat]
  · have hl : w.length = n.cmdBytes := by
      have := eight_mul_cmdBytes n
      omega
    rw [← hl, bytesOfNat_natOfBytes]

/-- Settles O2, word by word: each is evaluated. -/
theorem specWordsDecode : Obligations.SpecWordsDecode :=
  ⟨by decide, by decide, by decide, by decide, by decide, by decide, by decide⟩

/-! ### The frame -/

/-- Byte j of value i stands at 4i + j (R71, R96). -/
theorem getElem?_flatMap_le4 (values : List U32) (i : Nat) {j : Nat} (hj : j < 4) :
    (values.flatMap le4)[4 * i + j]? = values[i]?.map fun v => v.extractLsb' (8 * j) 8 := by
  induction values generalizing i with
  | nil => rfl
  | cons v vs ih =>
    rw [List.flatMap_cons]
    cases i with
    | zero =>
      rw [List.getElem?_append_left (by rw [length_le4]; omega)]
      match j with
      | 0 | 1 | 2 | 3 => rfl
    | succ i =>
      rw [List.getElem?_append_right (by rw [length_le4]; omega), length_le4,
        show 4 * (i + 1) + j - 4 = 4 * i + j by omega, ih i]
      rfl

/-- Settles O6: the preamble and the status by the frame's definition, the values by `getElem?_flatMap_le4`. -/
theorem frameLayout : Obligations.FrameLayout := by
  intro n status values hv
  refine ⟨by rw [length_frameBytes, hv], rfl, rfl, rfl, rfl, fun i j _ hj => ?_, rfl, by rw [length_payloadBytes, hv]⟩
  rw [show 4 + 4 * i + j = 4 * i + j + 4 by omega]
  exact getElem?_flatMap_le4 values i hj

/-- LE4 undoes u32le (R71, R167). -/
theorem le4_u32le (b0 b1 b2 b3 : Byte) : le4 (u32le b0 b1 b2 b3) = [b0, b1, b2, b3] := by
  simp only [le4, List.cons.injEq, and_true]
  refine ⟨?_, ?_, ?_, ?_⟩ <;>
  · ext k hk
    -- the shift that puts a byte in its place is undone, and the other three have no bit there
    simp only [u32le, BitVec.getElem_extractLsb', BitVec.getLsbD_or, BitVec.getLsbD_setWidth, BitVec.getLsbD_shiftLeft]
    grind

/-- The bytes of the values read from a word's bytes are those bytes. -/
theorem flatMap_le4_u32At {m : Nat} {bytes : List Byte} (h : bytes.length = 4 * m) :
    ((List.range m).map fun i => u32At bytes (4 * i)).flatMap le4 = bytes := by
  induction m generalizing bytes with
  | zero => exact (List.length_eq_zero_iff.1 h).symm
  | succ m ih =>
    match bytes, h with
    | b0 :: b1 :: b2 :: b3 :: rest, h =>
      have hrest : rest.length = 4 * m := by
        simp only [List.length_cons] at h
        omega
      rw [List.range_succ_eq_map, List.map_cons, List.flatMap_cons, List.map_map]
      exact congrArg₂ (· ++ ·) (le4_u32le b0 b1 b2 b3) (ih hrest)

/-- Settles O7: of the opcodes only 0x03 gives a TX_CYCLE, and the bytes behind the status are those of the values read
from them (`flatMap_le4_u32At`). -/
theorem cycleWordHoldsPayload : Obligations.CycleWordHoldsPayload := by
  intro n w status values h
  obtain ⟨hl, hd⟩ := decodeCmd_ok n w _ h
  obtain ⟨-, h'⟩ | ⟨-, h'⟩ | ⟨h0, h'⟩ | ⟨-, h'⟩ := decodeOp_cases n w <;> rw [h'] at hd
  · cases hd
  · cases hd
  · obtain ⟨rfl, rfl⟩ := Instr.txCycle.inj hd
    rw [NValues.cmdBytes] at hl
    obtain ⟨op, w, rfl⟩ := List.exists_cons_of_length_eq_add_one (n := 4 * n.count + 1) (l := w) (by omega)
    obtain ⟨status, rest, rfl⟩ := List.exists_cons_of_length_eq_add_one (n := 4 * n.count) (l := w)
      (by rw [List.length_cons] at hl; omega)
    have hrest : rest.length = 4 * n.count := by
      rw [List.length_cons, List.length_cons] at hl
      omega
    obtain rfl : op = 0x03#8 := h0
    exact congrArg (fun bytes => 0x03#8 :: status :: bytes) (flatMap_le4_u32At hrest).symm
  · cases hd

end Sys2Proof

namespace Sys2Proof.Machine

/-! ### Symbols -/

/-- Bit p of a symbol: the start bit, the data bits from position 1 on, the stop bits from position 9 on (R91, R92). -/
theorem symbol_getLsbD (k : StopBits) (d : Byte) (p : Nat) :
    (symbol k d).getLsbD p = (decide (9 ≤ p ∧ p < 9 + k.count) || decide (1 ≤ p) && d.getLsbD (p - 1)) := by
  have hd (h : 8 ≤ p - 1) : d.getLsbD (p - 1) = false := BitVec.getLsbD_of_ge d _ h
  simp only [symbol, BitVec.getLsbD_or, BitVec.getLsbD_shiftLeft, BitVec.getLsbD_ofNat, BitVec.getLsbD_setWidth,
    Nat.testBit_two_pow_sub_one]
  cases k <;> simp only [StopBits.count] <;> grind

/-- Settles O8: the levels by `symbol_getLsbD`, the examples evaluated. -/
theorem symbolLevels : Obligations.SymbolLevels := by
  refine ⟨fun k d => ⟨symbol_getLsbD_zero k d, fun i hi => ?_, fun p h9 hp => ?_, fun p hp => ?_⟩, by decide⟩
  · rw [symbol_getLsbD, decide_eq_false (by omega), Nat.add_sub_cancel_left]
    simp
  · rw [symbol_getLsbD, decide_eq_true ⟨h9, hp⟩, Bool.true_or]
  · rw [symbol_getLsbD, decide_eq_false (by omega), BitVec.getLsbD_of_ge d (p - 1) (by omega)]
    simp

/-! ### Commands that do not fit the port -/

/-- With READY = 1 after the tick, a presented word of another width is refused (R109; log 14). -/
theorem fetch_misfit {s : State} {w : CmdWord} {rest : List TxInput} (ha : s.nextAgent = .txu)
    (hin : s.txIn = .hold w :: rest ∨ s.txIn = .offer w :: rest) (hr : s.tick.tx.ready = true)
    (hl : w.length ≠ s.cfg.tx.nValues.cmdBytes) : fetch s = .reject .doesNotFitPort := by
  have hr' : s.popSched.tick.tx.ready = true := hr
  obtain ⟨i, hd, -⟩ | ⟨-, hw⟩ := acceptWord_cases w { s.popSched.tick with txIn := rest }
  · exact absurd (decodeCmd_ok _ w i hd).1 hl
  · obtain hin | hin := hin <;>
      simp only [fetch, ha, fetchTx, State.popSched_txIn, hin, if_pos hr', hw]

/-- Settles O16: exec checks the number of values itself, and the boundary the width of the word (`fetch_misfit`). -/
theorem misfitCommandRefused : Obligations.MisfitCommandRefused := by
  refine ⟨fun s status values hv => if_neg hv, fun s w rest ha hr hin hl => ?_⟩
  have hbytes := eight_mul_cmdBytes s.cfg.tx.nValues
  rw [step, fetch_misfit ha hin hr (by omega)]
  rfl

end Sys2Proof.Machine
end

section
/-! The line of commands held one behind the other, with GAP_US = 0 (40_transmitter.md rules R125 to R137, 30_encoding.md
rule R111): symbol after symbol, it depends on the bytes of all the commands alone. -/

namespace Sys2Proof.Machine

/-! ### One symbol, tick by tick -/

/-- TXU at tick r of position p of the symbol of `d` (R123, R133). -/
def Txu.inSymbol (c : TxConfig) (d : Byte) (p r : Nat) (t : Txu) : Txu :=
  { t with
    phase := .bit
    line := (symbol c.kStop d).getLsbD p
    shreg := symbol c.kStop d >>> p
    bitcnt := BitVec.ofNat 4 (symbolLen c.kStop - p)
    timer := BitVec.ofNat 16 (c.holdUs - r) }

section
variable {c : TxConfig} {d : Byte} {t : Txu} {p r : Nat}

theorem loadSymbol_eq_inSymbol : loadSymbol c d t = t.inSymbol c d 0 0 := by
  simp only [loadSymbol, Txu.inSymbol, symbol_getLsbD_zero, holdTicks, Nat.sub_zero, BitVec.ushiftRight_zero]

/-- A bit is held for H ticks (R121, R123). -/
theorem txTick_inSymbol_hold (hr : r + 1 < c.holdUs) : txTick c (t.inSymbol c d p r) = t.inSymbol c d p (r + 1) := by
  have hH := holdUs_le c
  have htimer : BitVec.ofNat 16 (c.holdUs - r) - 1#16 = BitVec.ofNat 16 (c.holdUs - (r + 1)) := by bv_omega
  have hne : BitVec.ofNat 16 (c.holdUs - (r + 1)) ≠ 0#16 := by bv_omega
  rw [txTick_wait c _ (by simp [Txu.inSymbol]) (by rw [Txu.inSymbol, htimer]; exact hne)]
  simp only [Txu.inSymbol, htimer]

/-- Then comes the next position, until the symbol's last (R123). -/
theorem txTick_inSymbol_nextBit (hr : r + 1 = c.holdUs) (hp : p + 1 < symbolLen c.kStop) :
    txTick c (t.inSymbol c d p r) = t.inSymbol c d (p + 1) 0 := by
  have hL := symbolLen_bounds c.kStop
  have htimer : BitVec.ofNat 16 (c.holdUs - r) - 1#16 = 0#16 := by
    rw [← hr, Nat.add_sub_cancel_left]
    rfl
  have hcnt : BitVec.ofNat 4 (symbolLen c.kStop - p) - 1#4 = BitVec.ofNat 4 (symbolLen c.kStop - (p + 1)) := by bv_omega
  have hne : BitVec.ofNat 4 (symbolLen c.kStop - (p + 1)) ≠ 0#4 := by bv_omega
  rw [txTick_bit_over c _ rfl htimer (by rw [Txu.inSymbol, hcnt]; exact hne)]
  simp only [Txu.inSymbol, hcnt, ← BitVec.shiftRight_add, BitVec.getLsbD_ushiftRight, Nat.add_zero, holdTicks, Nat.sub_zero]

/-- The last tick of a symbol is the last of its last bit. -/
theorem inSymbol_last (hr : r + 1 = c.holdUs) (hp : p + 1 = symbolLen c.kStop) :
    (t.inSymbol c d p r).timer - 1#16 = 0#16 ∧ (t.inSymbol c d p r).bitcnt - 1#4 = 0#4 := by
  simp [Txu.inSymbol, ← hr, ← hp]

end

/-! ### The ticks of a symbol in a run -/

theorem run_add {k m : Nat} {s t : State} (h : run k s = .next t) : run (k + m) s = run m t := by
  induction k generalizing s with
  | zero =>
    obtain rfl := Host.Outcome.next.inj h
    rw [Nat.zero_add]
  | succ k ih =>
    obtain ⟨s', hs, hr⟩ := step_of_run_succ h
    rw [Nat.add_right_comm, run_succ_of_step _ hs, ih hr]

theorem run_succ_of_run {k : Nat} {s t u : State} (h : run k s = .next t) (hs : step t = .next u) :
    run (k + 1) s = .next u := by
  rw [run_add h, run_succ_of_step 0 hs, run_zero]

/-- TXU moves at every step, and its pins carry a held command or nothing. -/
structure State.Holds (s : State) : Prop where
  sched : s.sched = []
  txIn : s.txIn = [] ∨ ∃ w rest, s.txIn = .hold w :: rest

section
variable {s : State} {t : Txu} {d : Byte}

theorem nextAgent_of_sched (h : s.sched = []) : s.nextAgent = .txu := by simp [State.nextAgent, h]

/-- While TXU is busy after the tick, a held command waits and nothing but the tick happens (R53). -/
theorem State.Holds.step_busy (h : s.Holds) (hb : (txTick s.cfg.tx s.tx).phase ≠ .idle) :
    step s = .next { s with tx := txTick s.cfg.tx s.tx } := by
  have hsched : { s with sched := s.sched.tail, tx := txTick s.cfg.tx s.tx } = { s with tx := txTick s.cfg.tx s.tx } := by
    rw [h.sched, List.tail_nil, ← h.sched]
  obtain hin | ⟨w, rest, hin⟩ := h.txIn
  · rw [← hsched]
    exact step_of_txIdleStep (nextAgent_of_sched h.sched) (.noInput hin)
  · rw [← hsched]
    exact step_of_txIdleStep (nextAgent_of_sched h.sched) (.holdWaits w rest hin hb)

/-- From the start of a symbol on, tick r of position p comes after p·H + r ticks (R133). -/
theorem State.Holds.run_inSymbol (h : s.Holds) (ht : s.tx = loadSymbol s.cfg.tx d s.tx) {p r : Nat}
    (hp : p < symbolLen s.cfg.tx.kStop) (hr : r < s.cfg.tx.holdUs) :
    run (p * s.cfg.tx.holdUs + r) s = .next { s with tx := s.tx.inSymbol s.cfg.tx d p r } := by
  have hnext {p r p' r' : Nat}
      (htick : txTick s.cfg.tx (s.tx.inSymbol s.cfg.tx d p r) = s.tx.inSymbol s.cfg.tx d p' r') :
      step { s with tx := s.tx.inSymbol s.cfg.tx d p r } = .next { s with tx := s.tx.inSymbol s.cfg.tx d p' r' } := by
    have hheld : State.Holds { s with tx := s.tx.inSymbol s.cfg.tx d p r } := ⟨h.sched, h.txIn⟩
    have hstep := hheld.step_busy (by rw [htick]; simp [Txu.inSymbol])
    rw [hstep, htick]
  induction p generalizing r with
  | zero =>
    induction r with
    | zero =>
      rw [Nat.zero_mul, ← loadSymbol_eq_inSymbol, ← ht]
      rfl
    | succ r ih => exact run_succ_of_run (ih (by omega)) (hnext (txTick_inSymbol_hold hr))
  | succ p ihp =>
    induction r with
    | zero =>
      obtain ⟨r, hr'⟩ : ∃ r, r + 1 = s.cfg.tx.holdUs := ⟨s.cfg.tx.holdUs - 1, by omega⟩
      have hlast := run_succ_of_run (ihp (r := r) (by omega) (by omega)) (hnext (txTick_inSymbol_nextBit hr' hp))
      rwa [Nat.add_assoc, hr', ← Nat.succ_mul] at hlast
    | succ r ih => exact run_succ_of_run (ih (by omega)) (hnext (txTick_inSymbol_hold hr))

end

/-! ### The end of a symbol -/

/-- The symbol of `d` has just begun, and `more` are the bytes of the command behind `d` (R125). -/
structure Txu.Loaded (c : TxConfig) (d : Byte) (more : List Byte) (t : Txu) : Prop where
  symbol : t = loadSymbol c d t
  count : t.qlen.toNat = t.qi.toNat + 1 + more.length
  queue : ∀ k < more.length, t.q[t.qi.toNat + 1 + k]? = more[k]?

theorem queueByte_of_getElem? {t : Txu} {i : BitVec 5} {d : Byte} (h : t.q[i.toNat]? = some d) : t.queueByte i = d := by
  obtain ⟨hi, hd⟩ := Vector.getElem?_eq_some_iff.1 h
  rw [queueByte_of_lt t i hi, hd]

section
variable {c : TxConfig} {d d' : Byte} {more : List Byte} {t : Txu} {p r : Nat}

theorem Txu.Started.loaded (h : t.Started c (d :: more)) : t.Loaded c d more := by
  have hcount := h.qlen
  have hqi : t.qi.toNat = 0 := by rw [h.qi]; rfl
  refine ⟨?_, by rw [hcount, hqi, List.length_cons]; omega, fun k hk => ?_⟩
  · have hshreg : symbol c.kStop d = t.shreg := Option.some.inj h.shreg
    have hbitcnt : t.bitcnt = BitVec.ofNat 4 (symbolLen c.kStop) :=
      BitVec.eq_of_toNat_eq (h.bitcnt.trans (toNat_symbolLen c.kStop).symm)
    have htimer : t.timer = holdTicks c := BitVec.eq_of_toNat_eq (h.timer.trans (toNat_holdTicks c).symm)
    rw [loadSymbol, hshreg, ← hbitcnt, ← htimer, ← h.line, ← h.phase]
  · have hq := h.queue (k + 1) (Nat.succ_lt_succ hk)
    rwa [hqi, Nat.zero_add, Nat.add_comm 1 k]

/-- The last tick of the symbol of a byte that is not the command's last loads the next one's (R125, R126). -/
theorem Txu.Loaded.txTick_next (h : t.Loaded c d (d' :: more)) (hg : c.gapUs = 0) (hr : r + 1 = c.holdUs)
    (hp : p + 1 = symbolLen c.kStop) : (txTick c (t.inSymbol c d p r)).Loaded c d' more := by
  obtain ⟨htimer, hcnt⟩ := inSymbol_last (t := t) (d := d) hr hp
  have hcount := h.count
  rw [List.length_cons] at hcount
  have hqi : (t.qi + 1#5).toNat = t.qi.toNat + 1 := by bv_omega
  have hne : t.qi + 1#5 ≠ t.qlen := fun he => by rw [← he, hqi] at hcount; omega
  have hbyte : (t.inSymbol c d p r).queueByte (t.qi + 1#5) = d' := by
    have hq := h.queue 0 (by simp)
    rw [Nat.add_zero, ← hqi] at hq
    exact queueByte_of_getElem? hq
  have htick := txTick_next_symbol c (t.inSymbol c d p r) rfl htimer hcnt hne hg
  rw [htick]
  refine ⟨?_, ?_, fun k hk => ?_⟩
  · exact congrArg (fun b => loadSymbol c b { t.inSymbol c d p r with qi := t.qi + 1#5 }) hbyte
  · dsimp only [loadSymbol_qlen, loadSymbol_qi, Txu.inSymbol]
    omega
  · have hq := h.queue (k + 1) (by simpa using hk)
    dsimp only [loadSymbol_q, loadSymbol_qi, Txu.inSymbol]
    rw [hqi, Nat.add_right_comm _ 1 k]
    exact hq

/-- The last tick of a command leaves TXU IDLE with the line at 1 (R126, R128). -/
theorem Txu.Loaded.txTick_over (h : t.Loaded c d []) (hr : r + 1 = c.holdUs) (hp : p + 1 = symbolLen c.kStop) :
    (txTick c (t.inSymbol c d p r)).phase = .idle ∧ (txTick c (t.inSymbol c d p r)).line = true := by
  obtain ⟨htimer, hcnt⟩ := inSymbol_last (t := t) (d := d) hr hp
  have hcount := h.count
  rw [List.length_nil] at hcount
  have hq : t.qi + 1#5 = t.qlen := by bv_omega
  rw [txTick_command_over c (t.inSymbol c d p r) rfl htimer hcnt hq]
  exact ⟨rfl, rfl⟩

end

/-! ### Commands held one behind the other -/

/-- A command of a build that puts bytes on the line. -/
def SendsBytes (n : NValues) (i : Instr) : Prop := queuedBytes i ≠ [] ∧ i.wellFormed n = true

theorem SendsBytes.exists_word {n : NValues} {i : Instr} (h : SendsBytes n i) :
    ∃ w, encode n i = .cmd w ∧ decodeCmd n w = .ok i := by
  obtain ⟨hq, hw⟩ := h
  cases he : encode n i with
  | cmd w => exact ⟨w, rfl, decode_of_encode_cmd hw he⟩
  | tok t =>
    have ha := decodeTok_agent t
    rw [decode_of_encode_tok he, (agent_of_queuedBytes hq).1] at ha
    cases ha

theorem SendsBytes.length_le {n : NValues} {i : Instr} (h : SendsBytes n i) : (queuedBytes i).length ≤ 20 := by
  obtain ⟨-, hw⟩ := h
  cases i with
  | txByte d => exact Nat.le_add_left 1 19
  | txU32 v => exact Nat.le_add_left 4 16
  | txCycle status values =>
    have hv : values.length = n.count := by simpa [Instr.wellFormed] using hw
    have hn := count_eq n
    rw [queuedBytes, cycleQueue, length_frameBytes]
    omega
  | reservedCmd op => exact Nat.zero_le 20
  | rxByte b => exact Nat.zero_le 20
  | rxEos => exact Nat.zero_le 20

/-- With READY = 1 such a command starts its bytes (R129 to R132). -/
theorem SendsBytes.exec_eq {i : Instr} {s : State} (h : SendsBytes s.cfg.tx.nValues i) (hp : s.tx.phase = .idle) :
    exec i s = .next (start (queuedBytes i) s) := by
  obtain ⟨hq, hw⟩ := h
  cases i with
  | txByte d => exact acceptIfReady_ready _ s hp
  | txU32 v => exact acceptIfReady_ready _ s hp
  | txCycle status values =>
    have hv : values.length = s.cfg.tx.nValues.count := by simpa [Instr.wellFormed] using hw
    exact (if_pos hv).trans (acceptIfReady_ready _ s hp)
  | reservedCmd op => exact absurd rfl hq
  | rxByte b => exact absurd rfl hq
  | rxEos => exact absurd rfl hq

/-- The caller presents its next command as a held word (R110). -/
theorem callerFrom_cmd {n : NValues} {i : Instr} {w : CmdWord} (he : encode n i = .cmd w) (afterCmd : Bool)
    (lines : List CallerLine) :
    callerFrom n afterCmd 0 (.cmd i :: lines) = .hold w :: callerFrom n true 0 lines := by
  cases afterCmd <;> simp [callerFrom, he, presentAfter]

/-- With GAP_US = 0, the symbol of `d` has just begun, `more` stands behind it in TX_Q, and the caller holds the commands
`is` one behind the other. -/
structure State.Sends (d : Byte) (more : List Byte) (is : List Instr) (s : State) : Prop where
  sched : s.sched = []
  gap : s.cfg.tx.gapUs = 0
  loaded : s.tx.Loaded s.cfg.tx d more
  txIn : s.txIn = callerFrom s.cfg.tx.nValues true 0 (is.map .cmd)
  sends : ∀ i ∈ is, SendsBytes s.cfg.tx.nValues i

/-- Every command is over and the line is at 1. -/
structure State.Rests (s : State) : Prop where
  sched : s.sched = []
  txIn : s.txIn = []
  phase : s.tx.phase = .idle
  line : s.tx.line = true

section
variable {s : State} {d d' : Byte} {more : List Byte} {i : Instr} {is : List Instr}

theorem start_sends (hsched : s.sched = []) (hgap : s.cfg.tx.gapUs = 0)
    (hin : s.txIn = callerFrom s.cfg.tx.nValues true 0 (is.map .cmd)) (hsends : ∀ j ∈ is, SendsBytes s.cfg.tx.nValues j)
    (hlen : more.length + 1 ≤ 20) : (start (d :: more) s).Sends d more is :=
  ⟨hsched, hgap, (start_started d more s hlen).loaded, hin, hsends⟩

/-- The boundary that finds TXU IDLE after its tick accepts the next command and starts its first symbol (R53, R128). -/
theorem step_accept {afterCmd : Bool} (hsched : s.sched = []) (hgap : s.cfg.tx.gapUs = 0)
    (hin : s.txIn = callerFrom s.cfg.tx.nValues afterCmd 0 ((i :: is).map .cmd))
    (hsends : ∀ j ∈ i :: is, SendsBytes s.cfg.tx.nValues j) (hq : queuedBytes i = d :: more)
    (hp : (txTick s.cfg.tx s.tx).phase = .idle) : ∃ t, step s = .next t ∧ t.cfg = s.cfg ∧ t.Sends d more is := by
  have hi := hsends i List.mem_cons_self
  obtain ⟨w, he, hd⟩ := hi.exists_word
  rw [List.map_cons, callerFrom_cmd he] at hin
  have hlen := hi.length_le
  rw [hq, List.length_cons] at hlen
  have hexec := hi.exec_eq
    (s := { s with
      sched := s.sched.tail, txIn := callerFrom s.cfg.tx.nValues true 0 (is.map .cmd), tx := txTick s.cfg.tx s.tx }) hp
  rw [hq] at hexec
  rw [step, fetch_accepted (nextAgent_of_sched hsched) (.inl hin) hp hd]
  exact ⟨_, hexec, rfl,
    start_sends (congrArg List.tail hsched) hgap rfl (fun j hj => hsends j (List.mem_cons_of_mem i hj)) hlen⟩

theorem State.Sends.holds (h : s.Sends d more is) : s.Holds := by
  refine ⟨h.sched, ?_⟩
  rw [h.txIn]
  cases is with
  | nil => exact .inl rfl
  | cons i is =>
    obtain ⟨w, he, -⟩ := (h.sends i List.mem_cons_self).exists_word
    exact .inr ⟨w, _, callerFrom_cmd he true _⟩

/-- The run up to the last tick of the symbol, and what that tick's boundary makes of it. -/
theorem State.Sends.run_symbol (h : s.Sends d more is) :
    ∃ p r, p + 1 = symbolLen s.cfg.tx.kStop ∧ r + 1 = s.cfg.tx.holdUs ∧
      ∀ t, step { s with tx := s.tx.inSymbol s.cfg.tx d p r } = .next t → run (symbolTicks s.cfg.tx) s = .next t := by
  have hL := symbolLen_bounds s.cfg.tx.kStop
  have hH := holdUs_pos s.cfg.tx
  obtain ⟨p, hp⟩ : ∃ p, p + 1 = symbolLen s.cfg.tx.kStop := ⟨symbolLen s.cfg.tx.kStop - 1, by omega⟩
  obtain ⟨r, hr⟩ : ∃ r, r + 1 = s.cfg.tx.holdUs := ⟨s.cfg.tx.holdUs - 1, by omega⟩
  refine ⟨p, r, hp, hr, fun t ht => ?_⟩
  have hrun := h.holds.run_inSymbol h.loaded.symbol (p := p) (r := r) (by omega) (by omega)
  have hticks : symbolTicks s.cfg.tx = p * s.cfg.tx.holdUs + r + 1 := by
    rw [symbolTicks, ← hp, Nat.succ_mul, Nat.add_assoc, hr]
  rw [hticks]
  exact run_succ_of_run hrun ht

/-- After S ticks the next byte of the command is on the line. -/
theorem State.Sends.run_next (h : s.Sends d (d' :: more) is) :
    ∃ t, run (symbolTicks s.cfg.tx) s = .next t ∧ t.cfg = s.cfg ∧ t.Sends d' more is := by
  obtain ⟨p, r, hp, hr, hrun⟩ := h.run_symbol
  have hload := h.loaded.txTick_next h.gap hr hp
  have hheld : State.Holds { s with tx := s.tx.inSymbol s.cfg.tx d p r } := ⟨h.sched, h.holds.txIn⟩
  have hstep := hheld.step_busy (by rw [hload.symbol]; simp)
  exact ⟨_, hrun _ hstep, rfl, h.sched, h.gap, hload, h.txIn, h.sends⟩

/-- So is the first byte of the next command, when it was the command's last. -/
theorem State.Sends.run_accept (h : s.Sends d [] (i :: is)) (hq : queuedBytes i = d' :: more) :
    ∃ t, run (symbolTicks s.cfg.tx) s = .next t ∧ t.cfg = s.cfg ∧ t.Sends d' more is := by
  obtain ⟨p, r, hp, hr, hrun⟩ := h.run_symbol
  obtain ⟨hidle, -⟩ := h.loaded.txTick_over hr hp
  obtain ⟨t, ht, hcfg, hsends⟩ :=
    step_accept (s := { s with tx := s.tx.inSymbol s.cfg.tx d p r }) h.sched h.gap h.txIn h.sends hq hidle
  exact ⟨t, hrun t ht, hcfg, hsends⟩

/-- After S ticks the next byte of all is on the line, of whichever command. -/
theorem State.Sends.run_rest {bytes : List Byte} (h : s.Sends d more is)
    (hbytes : more ++ is.flatMap queuedBytes = d' :: bytes) :
    ∃ t more' is', run (symbolTicks s.cfg.tx) s = .next t ∧ t.cfg = s.cfg ∧ t.Sends d' more' is' ∧
      more' ++ is'.flatMap queuedBytes = bytes := by
  cases more with
  | cons b more =>
    obtain ⟨rfl, hrest⟩ := List.cons.inj hbytes
    obtain ⟨t, ht, hcfg, hsends⟩ := h.run_next
    exact ⟨t, more, is, ht, hcfg, hsends, hrest⟩
  | nil =>
    cases is with
    | nil => cases hbytes
    | cons i is =>
      obtain ⟨b, more, hq⟩ := List.exists_cons_of_ne_nil (h.sends i List.mem_cons_self).1
      rw [List.nil_append, List.flatMap_cons, hq] at hbytes
      obtain ⟨rfl, hrest⟩ := List.cons.inj hbytes
      obtain ⟨t, ht, hcfg, hsends⟩ := h.run_accept hq
      exact ⟨t, more, is, ht, hcfg, hsends, hrest⟩

/-- After the last symbol of all the line rests. -/
theorem State.Sends.run_over (h : s.Sends d [] []) : ∃ t, run (symbolTicks s.cfg.tx) s = .next t ∧ t.Rests := by
  obtain ⟨p, r, hp, hr, hrun⟩ := h.run_symbol
  obtain ⟨hidle, hline⟩ := h.loaded.txTick_over hr hp
  have hstep := step_of_txIdleStep (s := { s with tx := s.tx.inSymbol s.cfg.tx d p r }) (nextAgent_of_sched h.sched)
    (.noInput h.txIn)
  exact ⟨_, hrun _ hstep, congrArg List.tail h.sched, h.txIn, hidle, hline⟩

theorem State.Rests.run (h : s.Rests) (n : Nat) : run n s = .next s := by
  have hstep : step s = .next s := by
    have hs := step_of_txIdleStep (nextAgent_of_sched h.sched) (.noInput h.txIn)
    rw [txTick_idle _ _ h.phase, h.sched, List.tail_nil, ← h.sched] at hs
    exact hs
  induction n with
  | zero => rfl
  | succ n ih => exact (run_succ_of_step n hstep).trans ih

end

/-! ### The line -/

section
variable {c : TxConfig}

theorem symbolTicks_pos (c : TxConfig) : 0 < symbolTicks c := by
  have hL := symbolLen_bounds c.kStop
  exact Nat.mul_pos (by omega) (holdUs_pos c)

theorem lineOf_nil (n : Nat) : lineOf c [] n = true := rfl

theorem lineOf_cons_of_lt (hg : c.gapUs = 0) {n : Nat} (hn : n < symbolTicks c) (d : Byte) (bytes : List Byte) :
    lineOf c (d :: bytes) n = (symbol c.kStop d).getLsbD (n / c.holdUs) := by
  simp [lineOf, hg, Nat.div_eq_of_lt hn, Nat.mod_eq_of_lt hn, hn]

theorem lineOf_cons_add (hg : c.gapUs = 0) (d : Byte) (bytes : List Byte) (n : Nat) :
    lineOf c (d :: bytes) (symbolTicks c + n) = lineOf c bytes n := by
  simp [lineOf, hg, Nat.add_div_left n (symbolTicks_pos c)]

end

/-- The line is that of the byte of the symbol at hand, and then the one from the symbol's end on. -/
theorem State.Sends.line_cons {s t : State} {d : Byte} {more bytes : List Byte} {is : List Instr}
    (h : s.Sends d more is) (ht : run (symbolTicks s.cfg.tx) s = .next t)
    (htail : ∀ m, ∃ u, run m t = .next u ∧ u.tx.line = lineOf s.cfg.tx bytes m) (n : Nat) :
    ∃ u, run n s = .next u ∧ u.tx.line = lineOf s.cfg.tx (d :: bytes) n := by
  rcases Nat.lt_or_ge n (symbolTicks s.cfg.tx) with hn | hn
  · have hp : n / s.cfg.tx.holdUs < symbolLen s.cfg.tx.kStop := Nat.div_lt_of_lt_mul (by rwa [Nat.mul_comm])
    have hrun := h.holds.run_inSymbol h.loaded.symbol hp (Nat.mod_lt n (holdUs_pos _))
    rw [Nat.div_add_mod'] at hrun
    exact ⟨_, hrun, (lineOf_cons_of_lt h.gap hn d bytes).symm⟩
  · obtain ⟨m, rfl⟩ := Nat.exists_eq_add_of_le hn
    obtain ⟨u, hu, hline⟩ := htail m
    exact ⟨u, (run_add ht).trans hu, hline.trans (lineOf_cons_add h.gap d bytes m).symm⟩

/-- From the start of a symbol on, the line is that of the byte on it and all the bytes behind (R137). -/
theorem State.Sends.run_line {bytes : List Byte} :
    ∀ {s : State} {d : Byte} {more : List Byte} {is : List Instr}, s.Sends d more is →
      more ++ is.flatMap queuedBytes = bytes →
      ∀ n, ∃ t, run n s = .next t ∧ t.tx.line = lineOf s.cfg.tx (d :: bytes) n := by
  induction bytes with
  | nil =>
    intro s d more is h hbytes
    obtain ⟨rfl, hnone⟩ := List.append_eq_nil_iff.1 hbytes
    cases is with
    | nil =>
      obtain ⟨t, ht, hrests⟩ := h.run_over
      exact h.line_cons ht fun m => ⟨t, hrests.run m, hrests.line⟩
    | cons i is => exact absurd (List.flatMap_eq_nil_iff.1 hnone i List.mem_cons_self) (h.sends i List.mem_cons_self).1
  | cons b bytes ih =>
    intro s d more is h hbytes
    obtain ⟨t, more', is', ht, hcfg, hsends, hbytes'⟩ := h.run_rest hbytes
    exact h.line_cons ht (hcfg ▸ ih hsends hbytes')

/-- Commands presented to a READY TXU give, from the first one's acceptance on, the line of all their bytes. -/
theorem run_withCaller_line {s : State} {is : List Instr} (hr : s.tx.ready = true) (hsched : s.sched = [])
    (hgap : s.cfg.tx.gapUs = 0) (hne : is ≠ []) (hsends : ∀ i ∈ is, SendsBytes s.cfg.tx.nValues i) (n : Nat) :
    ∃ t, run (n + 1) (s.withCaller (is.map .cmd)) = .next t ∧
      t.tx.line = lineOf s.cfg.tx (is.flatMap queuedBytes) n := by
  have hp : s.tx.phase = .idle := (ready_iff _).1 hr
  obtain ⟨i, is, rfl⟩ := List.exists_cons_of_ne_nil hne
  obtain ⟨d, more, hq⟩ := List.exists_cons_of_ne_nil (hsends i List.mem_cons_self).1
  obtain ⟨t, ht, hcfg, hbegun⟩ := step_accept (s := s.withCaller ((i :: is).map .cmd)) hsched hgap rfl hsends hq
    (by rw [txTick_idle _ _ (by exact hp)]; exact hp)
  obtain ⟨u, hu, hline⟩ := hbegun.run_line rfl n
  rw [List.flatMap_cons, hq]
  exact ⟨u, (run_succ_of_step n ht).trans hu, hcfg ▸ hline⟩

/-- Two programs of the same bytes give the same level at every tick. -/
theorem sameLine_of_flatMap_queuedBytes {s : State} {is js : List Instr} (hr : s.tx.ready = true) (hsched : s.sched = [])
    (hgap : s.cfg.tx.gapUs = 0) (his : is ≠ []) (hjs : js ≠ []) (hi : ∀ i ∈ is, SendsBytes s.cfg.tx.nValues i)
    (hj : ∀ j ∈ js, SendsBytes s.cfg.tx.nValues j) (h : is.flatMap queuedBytes = js.flatMap queuedBytes) (n : Nat) :
    ∃ a b, run n (s.withCaller (is.map .cmd)) = .next a ∧ run n (s.withCaller (js.map .cmd)) = .next b ∧
      a.tx.line = b.tx.line := by
  cases n with
  | zero => exact ⟨_, _, rfl, rfl, rfl⟩
  | succ n =>
    obtain ⟨a, ha, hla⟩ := run_withCaller_line hr hsched hgap his hi n
    obtain ⟨b, hb, hlb⟩ := run_withCaller_line hr hsched hgap hjs hj n
    exact ⟨a, b, ha, hb, by rw [hla, hlb, h]⟩

/-! ### The pseudo-instructions -/

theorem flatMap_queuedBytes_txframe (status : Byte) (values : List U32) :
    (txframe status values).flatMap queuedBytes = frameBytes status values := by
  simp [txframe, txpre, frameBytes, payloadBytes, queuedBytes, byteQueue, wordQueue, List.flatMap_map]

theorem flatMap_queuedBytes_txw4 (v : U32) : (txw4 v).flatMap queuedBytes = le4 v := rfl

theorem sendsBytes_txByte (n : NValues) (d : Byte) : SendsBytes n (.txByte d) := ⟨List.cons_ne_nil _ _, rfl⟩

theorem sendsBytes_txU32 (n : NValues) (v : U32) : SendsBytes n (.txU32 v) := ⟨List.cons_ne_nil _ _, rfl⟩

theorem sendsBytes_txCycle {n : NValues} {values : List U32} (hv : values.length = n.count) (status : Byte) :
    SendsBytes n (.txCycle status values) :=
  ⟨List.cons_ne_nil _ _, by simpa [Instr.wellFormed] using hv⟩

theorem sendsBytes_txframe (n : NValues) (status : Byte) (values : List U32) :
    ∀ i ∈ txframe status values, SendsBytes n i := by
  simp [txframe, txpre, sendsBytes_txByte, sendsBytes_txU32]

theorem sendsBytes_txw4 (n : NValues) (v : U32) : ∀ i ∈ txw4 v, SendsBytes n i :=
  List.forall_mem_map.2 fun d _ => sendsBytes_txByte n d

/-- Settles O26: both programs hold commands of the same bytes (`sameLine_of_flatMap_queuedBytes`). -/
theorem pseudoInstructionsSameLine : Obligations.PseudoInstructionsSameLine := by
  intro s hr hsched hgap n
  refine ⟨fun status values hv => ?_, fun v => ?_⟩
  · exact sameLine_of_flatMap_queuedBytes (is := [.txCycle status values]) (js := txframe status values) hr hsched hgap
      (List.cons_ne_nil _ _) (List.cons_ne_nil _ _) (List.forall_mem_singleton.2 (sendsBytes_txCycle hv status))
      (sendsBytes_txframe _ status values)
      ((List.flatMap_singleton _ _).trans (flatMap_queuedBytes_txframe status values).symm) n
  · exact sameLine_of_flatMap_queuedBytes (is := [.txU32 v]) (js := txw4 v) hr hsched hgap
      (List.cons_ne_nil _ _) (List.cons_ne_nil _ _) (List.forall_mem_singleton.2 (sendsBytes_txU32 _ v))
      (sendsBytes_txw4 _ v) ((List.flatMap_singleton _ _).trans (flatMap_queuedBytes_txw4 v).symm) n

end Sys2Proof.Machine
end

section
/-! The transmitter's line (40_transmitter.md rules R121 to R137): one command in closed form whatever is presented
meanwhile, commands held one behind the other, and the rules of a single tick. -/

namespace Sys2Proof.Machine

/-! ### The ticks gone -/

/-- The ticks since the boundary that accepted the command TXU is busy with: whole symbols with their gaps, then the
bits and the ticks of the symbol, or the ticks of the gap, at hand (R133). -/
def Txu.ticksGone (c : TxConfig) (t : Txu) : Nat :=
  match t.phase with
  | .idle => 0
  | .bit =>
    t.qi.toNat * (symbolTicks c + c.gapUs) + (symbolLen c.kStop - t.bitcnt.toNat) * c.holdUs +
      (c.holdUs - t.timer.toNat)
  | .gap => (t.qi.toNat - 1) * (symbolTicks c + c.gapUs) + symbolTicks c + (c.gapUs - t.timer.toNat)

section
variable {c : TxConfig} {t : Txu}

theorem Txu.ticksGone_of_bit (hp : t.phase = .bit) :
    t.ticksGone c =
      t.qi.toNat * (symbolTicks c + c.gapUs) + (symbolLen c.kStop - t.bitcnt.toNat) * c.holdUs +
        (c.holdUs - t.timer.toNat) := by
  simp [Txu.ticksGone, hp]

theorem Txu.ticksGone_of_gap (hp : t.phase = .gap) :
    t.ticksGone c =
      (t.qi.toNat - 1) * (symbolTicks c + c.gapUs) + symbolTicks c + (c.gapUs - t.timer.toNat) := by
  simp [Txu.ticksGone, hp]

/-- A command takes a symbol with its gap for each byte but the last, and the last one's symbol (R135). -/
theorem durationTicks_succ (c : TxConfig) (m : Nat) :
    durationTicks c (m + 1) = m * (symbolTicks c + c.gapUs) + symbolTicks c := by
  rw [durationTicks, Nat.add_sub_cancel]
  ring

/-- The ticks gone and the ticks left make up the whole command. -/
theorem Txu.Inv.ticksGone_add_ticksLeft (hi : t.Inv c) (hp : t.phase ≠ .idle) :
    t.ticksGone c + t.ticksLeft c = durationTicks c t.qlen.toNat := by
  obtain ⟨-, -, hbit, hgap⟩ := hi
  have hht := toNat_holdTicks c
  have hgt := toNat_gapTicks c
  cases hph : t.phase with
  | idle => exact absurd hph hp
  | bit =>
    obtain ⟨-, hb0, hbl, -, -, hth, hlt⟩ := hbit hph
    have hlen : t.qlen.toNat = t.qi.toNat + t.bytesBehind + 1 := by simp only [Txu.bytesBehind]; bv_omega
    obtain ⟨r, hr⟩ := Nat.exists_eq_add_of_le (hht ▸ hth : t.timer.toNat ≤ c.holdUs)
    obtain ⟨p, hsl⟩ := Nat.exists_eq_add_of_le hbl
    obtain ⟨m, hm⟩ : ∃ m, t.bitcnt.toNat = m + 1 := ⟨t.bitcnt.toNat - 1, by bv_omega⟩
    rw [Txu.ticksLeft, Txu.ticksBehind_of_bit hph, Txu.ticksGone_of_bit hph, hlen, durationTicks_succ]
    have hr' : c.holdUs - t.timer.toNat = r := by omega
    have hp' : symbolLen c.kStop - t.bitcnt.toNat = p := by omega
    rw [hr', hp', hm, Nat.add_sub_cancel]
    have hS : symbolTicks c = p * c.holdUs + m * c.holdUs + c.holdUs := by rw [symbolTicks, hsl, hm]; ring
    have hB := Nat.add_mul t.qi.toNat t.bytesBehind (symbolTicks c + c.gapUs)
    omega
  | gap =>
    obtain ⟨-, -, -, -, htg, hq0, hlt⟩ := hgap hph
    have ht : t.timer.toNat ≤ c.gapUs := hgt ▸ htg
    have hlen : t.qlen.toNat = t.qi.toNat - 1 + 1 + t.bytesBehind + 1 := by simp only [Txu.bytesBehind]; bv_omega
    rw [Txu.ticksLeft, Txu.ticksBehind_of_gap hph, Txu.ticksGone_of_gap hph, hlen, durationTicks_succ, Nat.add_mul,
      Nat.succ_mul]
    omega

/-- BUSY is that there are ticks left (R41, R133). -/
theorem Txu.Inv.ticksLeft_eq_zero_iff (hi : t.Inv c) : t.ticksLeft c = 0 ↔ t.phase = .idle := by
  refine ⟨fun h => by_contra fun hp => (hi.ticksLeft_pos hp).ne' h, fun hp => ?_⟩
  obtain ⟨-, hidle, -, -⟩ := hi
  obtain ⟨-, -, -, ht, -⟩ := hidle hp
  rw [Txu.ticksLeft, Txu.ticksBehind_of_idle hp, ht]
  rfl

/-! ### The closed form -/

theorem mul_add_div_mod_of_lt {k m w : Nat} (h : m < w) : (k * w + m) / w = k ∧ (k * w + m) % w = m :=
  (Nat.div_mod_unique (Nat.zero_lt_of_lt h)).2 ⟨by ring, h⟩

/-- Tick r of position p of symbol k has that position's level (R133). -/
theorem lineOf_position {bytes : List Byte} {k p r : Nat} {d : Byte} (hd : bytes[k]? = some d)
    (hp : p < symbolLen c.kStop) (hr : r < c.holdUs) :
    lineOf c bytes (k * (symbolTicks c + c.gapUs) + p * c.holdUs + r) = (symbol c.kStop d).getLsbD p := by
  have hS : p * c.holdUs + r < symbolTicks c := by
    have hle : (p + 1) * c.holdUs ≤ symbolTicks c := Nat.mul_le_mul_right _ hp
    rw [Nat.succ_mul] at hle
    omega
  obtain ⟨hk, hm⟩ := mul_add_div_mod_of_lt (k := k) (Nat.lt_add_right c.gapUs hS)
  obtain ⟨hpos, -⟩ := mul_add_div_mod_of_lt (k := p) hr
  rw [Nat.add_assoc, lineOf, hk, hm, hd]
  dsimp only
  rw [if_pos hS, hpos]

/-- The gap behind symbol k is at 1 (R133). -/
theorem lineOf_gap (bytes : List Byte) (k : Nat) {r : Nat} (hr : r < c.gapUs) :
    lineOf c bytes (k * (symbolTicks c + c.gapUs) + symbolTicks c + r) = true := by
  obtain ⟨hk, hm⟩ := mul_add_div_mod_of_lt (k := k) (Nat.add_lt_add_left hr (symbolTicks c))
  have hS : ¬ symbolTicks c + r < symbolTicks c := by omega
  rw [Nat.add_assoc, lineOf, hk, hm]
  cases bytes[k]? with
  | none => rfl
  | some d => exact if_neg hS

/-- A busy TXU has on the line what the closed form of its bytes says of the ticks gone. -/
theorem Txu.Inv.line_eq_lineOf {bytes : List Byte} (hi : t.Inv c) (hp : t.phase ≠ .idle)
    (hlen : t.qlen.toNat = bytes.length) (hq : ∀ k < bytes.length, t.q[k]? = bytes[k]?) :
    t.line = lineOf c bytes (t.ticksGone c) := by
  obtain ⟨-, -, hbit, hgap⟩ := hi
  have hht := toNat_holdTicks c
  have hgt := toNat_gapTicks c
  cases hph : t.phase with
  | idle => exact absurd hph hp
  | bit =>
    obtain ⟨hline, hb0, hbl, hs, ht0, -, hlt⟩ := hbit hph
    have hqi : t.qi.toNat < bytes.length := by bv_omega
    have hbyte : t.queueByte t.qi = bytes[t.qi.toNat] :=
      queueByte_of_getElem? ((hq _ hqi).trans (List.getElem?_eq_getElem hqi))
    have hH := holdUs_pos c
    rw [Txu.ticksGone_of_bit hph, lineOf_position (List.getElem?_eq_getElem hqi) (by bv_omega) (by bv_omega), hline, hs,
      BitVec.getLsbD_ushiftRight, Nat.add_zero, hbyte]
  | gap =>
    obtain ⟨hline, -, -, ht0, htg, -⟩ := hgap hph
    rw [Txu.ticksGone_of_gap hph, lineOf_gap bytes _ (by bv_omega), hline]

end

/-! ### One command in a run -/

/-- `n` ticks of a command of these bytes are over, and TXU's coming inputs are what is left of `ins`. -/
structure State.SendsAt (c : TxConfig) (bytes : List Byte) (ins : List TxInput) (n : Nat) (s : State) : Prop where
  cfg : s.cfg.tx = c
  sched : s.sched = []
  txIn : s.txIn <:+ ins
  inv : s.tx.Inv c
  qlen : s.tx.qlen.toNat = bytes.length
  queue : ∀ k < bytes.length, s.tx.q[k]? = bytes[k]?
  ticks : n + s.tx.ticksLeft c = durationTicks c bytes.length

section
variable {c : TxConfig} {bytes : List Byte} {ins : List TxInput} {n : Nat} {s : State}

/-- BUSY = 1 up to the command's last tick (R133). -/
theorem State.SendsAt.busy (h : s.SendsAt c bytes ins n) (hn : n < durationTicks c bytes.length) :
    s.tx.phase ≠ .idle := by
  have hticks := h.ticks
  rw [Ne, ← h.inv.ticksLeft_eq_zero_iff]
  omega

theorem State.SendsAt.line (h : s.SendsAt c bytes ins n) (hn : n < durationTicks c bytes.length) :
    s.tx.line = lineOf c bytes n := by
  have hp := h.busy hn
  have hgone : s.tx.ticksGone c = n := by
    have hsum := h.inv.ticksGone_add_ticksLeft hp
    have hticks := h.ticks
    rw [h.qlen] at hsum
    omega
  rw [h.inv.line_eq_lineOf hp h.qlen h.queue, hgone]

/-- The tick leaves one less, whatever the boundary's pins carry. -/
theorem State.SendsAt.tick (h : s.SendsAt c bytes ins n) (hn : n < durationTicks c bytes.length) :
    s.tick.SendsAt c bytes ins (n + 1) := by
  obtain ⟨hq, hqlen, -⟩ := txTick_frame c s.tx
  have hless := txTick_ticksLeft h.inv (h.busy hn)
  have hticks := h.ticks
  have htx : s.tick.tx = txTick c s.tx := by rw [State.tick_tx, h.cfg]
  constructor
  · exact h.cfg
  · exact h.sched
  · exact h.txIn
  · exact htx ▸ txTick_inv h.inv
  · rw [htx, hqlen, h.qlen]
  · rw [htx, hq]
    exact h.queue
  · rw [htx]
    omega

/-- The tick at t_end leaves TXU IDLE with the line at 1 (R126, R133). -/
theorem State.SendsAt.over (h : s.SendsAt c bytes ins n) (hn : n = durationTicks c bytes.length) :
    s.tx.phase = .idle ∧ s.tx.line = true := by
  have hticks := h.ticks
  have hp : s.tx.phase = .idle := h.inv.ticksLeft_eq_zero_iff.1 (by omega)
  obtain ⟨-, hidle, -, -⟩ := h.inv
  exact ⟨hp, (hidle hp).1⟩

/-- While TXU is busy after the tick, a boundary without rst_tx takes no command and uses up at most its own pins
(R53). -/
theorem step_busy_noReset (hsched : s.sched = []) (hin : ∀ x ∈ s.txIn, x.isReset = false)
    (hb : (txTick s.cfg.tx s.tx).phase ≠ .idle) :
    ∃ rest, rest <:+ s.txIn ∧ step s = .next { s.tick with sched := s.sched.tail, txIn := rest } := by
  have ha := nextAgent_of_sched hsched
  rcases hx : s.txIn with _ | ⟨x, rest⟩
  · exact ⟨[], List.suffix_rfl, hx ▸ step_of_txIdleStep ha (.noInput hx)⟩
  · cases x with
    | reset p => exact absurd (hin (.reset p) (hx ▸ List.mem_cons_self)) (by simp [TxInput.isReset])
    | idle => exact ⟨rest, List.suffix_cons _ _, step_of_txIdleStep ha (.idle rest hx)⟩
    | offer w => exact ⟨rest, List.suffix_cons _ _, step_of_txIdleStep ha (.offerMissed w rest hx hb)⟩
    | hold w => exact ⟨.hold w :: rest, List.suffix_rfl, hx ▸ step_of_txIdleStep ha (.holdWaits w rest hx hb)⟩

theorem State.SendsAt.step_next (h : s.SendsAt c bytes ins n) (hins : ∀ x ∈ ins, x.isReset = false)
    (hn : n + 1 < durationTicks c bytes.length) :
    ∃ t, step s = .next t ∧ t.SendsAt c bytes ins (n + 1) := by
  have ht := h.tick (by omega)
  obtain ⟨rest, hrest, hs⟩ := step_busy_noReset h.sched (fun x hx => hins x (h.txIn.subset hx)) (ht.busy hn)
  exact ⟨_, hs, ht.cfg, congrArg List.tail h.sched, hrest.trans h.txIn, ht.inv, ht.qlen, ht.queue, ht.ticks⟩

/-- From its acceptance on, a command that is not reset is at tick n after n boundaries, whatever is presented. -/
theorem State.SendsAt.run_at (h : s.SendsAt c bytes ins 0) (hins : ∀ x ∈ ins, x.isReset = false)
    (hn : n < durationTicks c bytes.length) : ∃ t, run n s = .next t ∧ t.SendsAt c bytes ins n := by
  induction n with
  | zero => exact ⟨s, rfl, h⟩
  | succ n ih =>
    obtain ⟨t, ht, hat⟩ := ih (by omega)
    obtain ⟨u, hu, hat'⟩ := hat.step_next hins hn
    exact ⟨u, run_succ_of_run ht hu, hat'⟩

/-- Without inputs TXU rests from the command's last tick on. -/
theorem State.SendsAt.run_rests (h : s.SendsAt c bytes [] n) (hn : n + 1 = durationTicks c bytes.length) :
    ∃ t, step s = .next t ∧ t.Rests := by
  have hin : s.txIn = [] := List.suffix_nil.1 h.txIn
  obtain ⟨hp, hl⟩ := (h.tick (by omega)).over hn
  exact ⟨_, step_of_txIdleStep (nextAgent_of_sched h.sched) (.noInput hin), congrArg List.tail h.sched, hin, hp, hl⟩

end

/-! ### The accepted command -/

section
variable {s t : State} {i : Instr}

/-- What exec answers a next state for, and puts bytes in TX_Q, is a command of the build (R109). -/
theorem sendsBytes_of_exec (hq : queuedBytes i ≠ []) (h : exec i s = .next t) : SendsBytes s.cfg.tx.nValues i := by
  refine ⟨hq, ?_⟩
  cases i with
  | txByte d => rfl
  | txU32 v => rfl
  | txCycle status values =>
    by_contra hw
    rw [misfitCommandRefused.1 s status values (by simpa [Instr.wellFormed] using hw)] at h
    cases h
  | reservedCmd op => exact absurd rfl hq
  | rxByte b => exact absurd rfl hq
  | rxEos => exact absurd rfl hq

/-- The lengths a command may have (R39). -/
theorem SendsBytes.length_eq {n : NValues} (h : SendsBytes n i) :
    (queuedBytes i).length = 1 ∨ (queuedBytes i).length = 4 ∨ (queuedBytes i).length = n.frameLen := by
  obtain ⟨hq, hw⟩ := h
  cases i with
  | txByte d => exact .inl rfl
  | txU32 v => exact .inr (.inl rfl)
  | txCycle status values =>
    have hv : values.length = n.count := by simpa [Instr.wellFormed] using hw
    exact .inr (.inr (by rw [queuedBytes, cycleQueue, length_frameBytes, hv, NValues.frameLen]))
  | reservedCmd op => exact absurd rfl hq
  | rxByte b => exact absurd rfl hq
  | rxEos => exact absurd rfl hq

/-- At every READY state such a command completes and starts its bytes (R129). -/
theorem SendsBytes.exec_started (h : SendsBytes s.cfg.tx.nValues i) (hr : s.tx.ready = true) :
    ∃ t, exec i s = .next t ∧ t.tx.Started s.cfg.tx (queuedBytes i) := by
  refine ⟨_, h.exec_eq ((ready_iff _).1 hr), ?_⟩
  have hlen := h.length_le
  obtain ⟨b, rest, hq⟩ := List.exists_cons_of_ne_nil h.1
  rw [hq] at hlen ⊢
  exact start_started b rest s hlen

theorem Txu.Started.ticksGone {c : TxConfig} {bytes : List Byte} {t : Txu} (h : t.Started c bytes) :
    t.ticksGone c = 0 := by
  rw [Txu.ticksGone_of_bit h.phase, h.bitcnt, h.timer, h.qi]
  simp

/-- The boundary that accepts a command begins its first tick (R129, R133). -/
theorem sendsAt_zero_of_exec (hr : s.tx.ready = true) (hq : queuedBytes i ≠ []) (h : exec i s = .next t)
    (hsched : t.sched = []) : t.SendsAt s.cfg.tx (queuedBytes i) t.txIn 0 := by
  have hi := sendsBytes_of_exec hq h
  obtain ⟨t', ht', hstarted⟩ := hi.exec_started hr
  obtain rfl : t = t' := Host.Outcome.next.inj (h.symm.trans ht')
  obtain rfl : t = start (queuedBytes i) s := Host.Outcome.next.inj (h.symm.trans (hi.exec_eq ((ready_iff _).1 hr)))
  have hinv : (start (queuedBytes i) s).tx.Inv s.cfg.tx := by
    have hlen := hi.length_eq
    obtain ⟨b, rest, hb⟩ := List.exists_cons_of_ne_nil hq
    rw [hb] at hlen ⊢
    exact start_inv b rest s hlen
  have hsum := hinv.ticksGone_add_ticksLeft (by simp [hstarted.phase])
  rw [hstarted.ticksGone, hstarted.qlen] at hsum
  exact ⟨congrArg Config.tx (start_sameButTx _ s).cfg, hsched, List.suffix_rfl, hinv, hstarted.qlen, hstarted.queue,
    hsum⟩

end

/-- Settles O23: the invariant of a run tells from the ticks gone where TXU is in its command (`State.SendsAt.line`). -/
theorem lineOfOneCommand : Obligations.LineOfOneCommand := by
  intro s s0 i hr hq hx hsched hins H S g L tEnd
  have hat := sendsAt_zero_of_exec hr hq hx hsched
  have hpos : 0 < tEnd := Nat.add_pos_left (Nat.mul_pos (List.length_pos_of_ne_nil hq) (symbolTicks_pos s.cfg.tx)) _
  obtain ⟨t, ht, hlast⟩ := hat.run_at hins (n := tEnd - 1) (Nat.sub_lt hpos Nat.one_pos)
  refine ⟨fun n hn => ?_, ⟨t, ht, (hlast.tick (Nat.sub_lt hpos Nat.one_pos)).over (Nat.sub_add_cancel hpos)⟩, ?_⟩
  · obtain ⟨u, hu, hnow⟩ := hat.run_at hins hn
    have hline := hnow.line hn
    refine ⟨u, hu, (busy_iff _).2 (hnow.busy hn), fun k p d hd hp hlo hhi => ?_, fun k hk hlo hhi => ?_⟩
    · obtain ⟨r, rfl⟩ := Nat.exists_eq_add_of_le hlo
      have hr : r < H := by
        rw [Nat.succ_mul] at hhi
        omega
      exact hline.trans (lineOf_position hd (by rw [symbolLen]; omega) hr)
    · obtain ⟨r, rfl⟩ := Nat.exists_eq_add_of_le hlo
      exact hline.trans (lineOf_gap _ k (Nat.lt_of_add_lt_add_left hhi))
  · intro hnil n hn
    rw [hnil] at hlast
    obtain ⟨u, hu, hrests⟩ := hlast.run_rests (Nat.sub_add_cancel hpos)
    obtain ⟨m, rfl⟩ := Nat.exists_eq_add_of_le hn
    have hend := run_succ_of_run ht hu
    rw [Nat.sub_add_cancel hpos] at hend
    exact ⟨u, (run_add hend).trans (hrests.run m), hrests.phase, hrests.line⟩

/-- Settles O25: with commands by `run_withCaller_line`; with none TXU rests. -/
theorem backToBackLine : Obligations.BackToBackLine := by
  intro s is hi hr hsched hgap hsends n
  cases is with
  | nil =>
    have hp : s.tx.phase = .idle := (ready_iff _).1 hr
    obtain ⟨-, hidle, -, -⟩ := hi.tx
    have hrests : (s.withCaller []).Rests := ⟨hsched, rfl, hp, (hidle hp).1⟩
    exact ⟨_, hrests.run (n + 1), hrests.line⟩
  | cons i is => exact run_withCaller_line hr hsched hgap (List.cons_ne_nil i is) hsends n

/-! ### A single tick -/

section
variable {c : TxConfig} {t t' : Txu}

/-- The last bit of a symbol is a stop bit, at 1 (R91). -/
theorem Txu.BitOk.line_of_lastBit (h : t.BitOk c) (hb : t.bitcnt - 1#4 = 0#4) : t.line = true := by
  obtain ⟨hline, -, -, hs, -⟩ := h
  have h1 : t.bitcnt.toNat = 1 := by bv_omega
  have hL := symbolLen_bounds c.kStop
  rw [hline, hs, h1, BitVec.getLsbD_ushiftRight, Nat.add_zero]
  exact (symbolLevels.1 c.kStop _).2.2.1 _ (by omega) (by rw [symbolLen]; omega)

theorem Txu.Inv.lineOk (h : t.Inv c) : t.LineOk := by
  obtain ⟨-, hidle, hbit, hgap⟩ := h
  refine ⟨fun hp => (hbit hp).1, fun hp => ?_⟩
  obtain hp | hp := hp
  · exact (hidle hp).1
  · exact (hgap hp).1

/-- The boundaries at which the line may take a new level: a bit, a symbol or a gap starts (R124). -/
def Txu.LevelStarts (c : TxConfig) (t : Txu) : Prop :=
  (t.phase = .bit ∧ t.timer.toNat = c.holdUs) ∨ (t.phase = .gap ∧ t.timer.toNat = c.gapUs)

theorem loadSymbol_levelStarts (c : TxConfig) (d : Byte) (t : Txu) : (loadSymbol c d t).LevelStarts c :=
  .inl ⟨rfl, toNat_holdTicks c⟩

theorem Txu.LevelStarts.not_idle (h : t.LevelStarts c) : t.phase ≠ .idle := by
  obtain ⟨hp, -⟩ | ⟨hp, -⟩ := h <;> simp [hp]

/-- A tick changes the level only so: the end of a command finds the line at 1 already, by its last stop bit. -/
theorem TickStep.levelStarts (h : TickStep c t t') (hi : t.Inv c) (hl : t'.line ≠ t.line) : t'.LevelStarts c := by
  obtain ⟨-, -, hbit, -⟩ := hi
  cases h with
  | idle hp => exact absurd rfl hl
  | wait hp ht => exact absurd rfl hl
  | gapOver hp ht => exact loadSymbol_levelStarts c _ _
  | bitOver hp ht hb => exact .inl ⟨hp, toNat_holdTicks c⟩
  | commandOver hp ht hb hq => exact absurd ((hbit hp).line_of_lastBit hb).symm hl
  | enterGap hp ht hb hq hg => exact .inr ⟨rfl, toNat_gapTicks c⟩
  | nextSymbol hp ht hb hq hg => exact loadSymbol_levelStarts c _ _

/-- The end of a symbol moves on to the next byte, whether the command is over, a gap begins or the next symbol
(R126). -/
theorem txTick_qi_of_lastBit (hp : t.phase = .bit) (ht : t.timer - 1#16 = 0#16) (hb : t.bitcnt - 1#4 = 0#4) :
    (txTick c t).qi = t.qi + 1#5 := by
  by_cases hq : t.qi + 1#5 = t.qlen
  · rw [txTick_command_over c t hp ht hb hq]
  rcases Nat.eq_zero_or_pos c.gapUs with hg | hg
  · rw [txTick_next_symbol c t hp ht hb hq hg, loadSymbol_qi]
  · rw [txTick_enter_gap c t hp ht hb hq hg]

end

section
variable {s t : State}

theorem TxIdleStep.tx_eq (h : TxIdleStep s t) :
    s.txIn.head?.map TxInput.isReset = some true ∨ t.tx = txTick s.cfg.tx s.tx := by
  cases h with
  | reset p rest hin => exact .inl (by rw [hin]; rfl)
  | noInput hin => exact .inr rfl
  | idle rest hin => exact .inr rfl
  | offerMissed w rest hin hb => exact .inr rfl
  | holdWaits w rest hin hb => exact .inr rfl

/-- A boundary of TXU without rst_tx changes the level only where the tick, or the command it accepts, starts one. -/
theorem step_txu_levelStarts (h : step s = .next t) (ha : s.nextAgent = .txu) (hi : s.tx.Inv s.cfg.tx)
    (hl : t.tx.line ≠ s.tx.line) : s.TxResetNow ∨ t.tx.LevelStarts s.cfg.tx := by
  have htick := (txTick_tickStep s.cfg.tx s.tx).levelStarts hi
  obtain hs | ⟨w, rest, i, -, hp, hd, he⟩ := step_txu_cases h ha
  · obtain hreset | htx := hs.tx_eq
    · exact .inl ⟨ha, hreset⟩
    · rw [htx] at hl ⊢
      exact .inr (htick hl)
  · obtain ⟨hb, -⟩ | ⟨-, ⟨op, -, rfl⟩ | ⟨b, more, -, rfl, -⟩⟩ := exec_tx_next i _ t (decodeCmd_agent hd) he
    · exact absurd hp hb
    · -- a reserved command leaves TXU IDLE, where no level starts
      rw [raise_tx] at hl
      exact absurd hp (htick hl).not_idle
    · exact .inr (loadSymbol_levelStarts _ _ _)

/-- Settles O53: the level by the invariant of the next state, its changes by `step_txu_levelStarts`. -/
theorem lineInvariant : Obligations.LineInvariant := by
  intro s t hi h
  refine ⟨(stepKeepsInv s t hi h).tx.lineOk, fun hl => ?_⟩
  cases ha : s.nextAgent with
  | txu => exact step_txu_levelStarts h ha hi.tx hl
  | rxu => exact absurd (congrArg Txu.line (step_rxu_frame h ha)) hl

/-- With no input coming a step is the tick alone (R212). -/
theorem step_of_quiet (h : s.Quiet) : step s = .next s.tick := by
  obtain ⟨hsched, hin⟩ := h
  have hs := step_of_txIdleStep (nextAgent_of_sched hsched) (.noInput hin)
  rw [hsched, List.tail_nil, ← hsched] at hs
  exact hs

theorem step_of_quiet_txTick (h : s.Quiet) {u : Txu} (hu : txTick s.cfg.tx s.tx = u) :
    step s = .next { s with tx := u } := by
  rw [step_of_quiet h, State.tick, hu]

theorem tick_sameButTx (s : State) : s.SameButTx s.tick := ⟨rfl, rfl, rfl, rfl, rfl, rfl⟩

end

/-- Settles O19, by `txTick_idle` and `txTick_wait`. -/
theorem tickCountsDown : Obligations.TickCountsDown := by
  intro s h
  refine ⟨fun hp => ?_, fun hp ht => ?_⟩
  · exact step_of_quiet_txTick h (txTick_idle _ _ hp)
  · exact step_of_quiet_txTick h (txTick_wait _ _ hp (by bv_omega))

/-- Settles O20, by `txTick_bit_over`. -/
theorem tickShiftsNextBit : Obligations.TickShiftsNextBit := by
  intro s h hp ht hb
  have hbit : s.tx.shreg.getLsbD 1 = (s.tx.shreg >>> 1).getLsbD 0 := by rw [BitVec.getLsbD_ushiftRight]
  rw [hbit]
  exact step_of_quiet_txTick h (txTick_bit_over _ _ hp (by rw [ht]; rfl) (by bv_omega))

/-- Settles O21: the three ends of a symbol are `txTick_command_over`, `txTick_enter_gap` and `txTick_next_symbol`. -/
theorem tickEndsSymbol : Obligations.TickEndsSymbol := by
  intro s h hp ht hb
  have ht' : s.tx.timer - 1#16 = 0#16 := by rw [ht]; rfl
  have hb' : s.tx.bitcnt - 1#4 = 0#4 := by rw [hb]; rfl
  obtain ⟨hq, hqlen, herr⟩ := txTick_frame s.cfg.tx s.tx
  refine ⟨s.tick, step_of_quiet h, tick_sameButTx s, txTick_qi_of_lastBit hp ht' hb', herr, hq, hqlen,
    fun hlast => ?_, fun hmore hg => ?_, fun hmore hg d hd => ?_⟩
  · rw [State.tick_tx, txTick_command_over _ _ hp ht' hb' hlast]
    exact ⟨rfl, rfl, rfl, rfl, rfl⟩
  · rw [State.tick_tx, txTick_enter_gap _ _ hp ht' hb' hmore hg]
    exact ⟨rfl, rfl, toNat_gapTicks _, rfl⟩
  · rw [State.tick_tx, txTick_next_symbol _ _ hp ht' hb' hmore hg]
    exact ⟨rfl, rfl, toNat_holdTicks _, congrArg (symbol _) (queueByte_of_getElem? hd), toNat_symbolLen _⟩

/-- Settles O22, by `txTick_gap_over`. -/
theorem tickEndsGap : Obligations.TickEndsGap := by
  intro s d h hp ht hd
  have htick := txTick_gap_over s.cfg.tx s.tx hp (by rw [ht]; rfl)
  rw [queueByte_of_getElem? hd] at htick
  exact step_of_quiet_txTick h htick

/-! ### The commands, one by one -/

/-- Settles O10: TX_BYTE's bytes are [d]. -/
theorem txByteStarts : Obligations.TxByteStarts := fun s d hr =>
  (sendsBytes_txByte s.cfg.tx.nValues d).exec_started hr

/-- Settles O11: TX_U32's bytes are LE4(v). -/
theorem txU32Starts : Obligations.TxU32Starts := fun s v hr =>
  (sendsBytes_txU32 s.cfg.tx.nValues v).exec_started hr

/-- Settles O12: TX_CYCLE's bytes are the frame. -/
theorem txCycleStarts : Obligations.TxCycleStarts := fun _ status _ hr hv =>
  (sendsBytes_txCycle hv status).exec_started hr

/-- Settles O24: with H = 104 and no gap, len bytes take len·(9 + K_STOP)·104 ticks. -/
theorem calibratedDurations : Obligations.CalibratedDurations := by
  intro c hcal hg
  have hH : c.holdUs = 104 := holdUs_of_calibrated c hcal
  have hticks (len : Nat) : durationTicks c len = len * (symbolLen c.kStop * 104) := by
    rw [durationTicks, symbolTicks, hH, hg, Nat.mul_zero, Nat.add_zero]
  refine ⟨fun hk => ?_, fun hk => ?_⟩ <;>
  · rw [hticks, hticks, hticks, hticks, hk]
    exact ⟨rfl, rfl, rfl, rfl⟩

end Sys2Proof.Machine
end

section
/-! The scanner between frames: what one byte does in SCAN, what the window holds after bytes without FF FF FE, and the
records of noise before a frame and of frames back to back (41_frame_sync.md rules R151 to R162). -/

namespace Sys2Proof.Machine

/-! ### One byte in SCAN -/

/-- Settles O28: a byte that matches enters CAPTURE, and any other leaves RXU in SCAN. -/
theorem preambleMatchExactly : Obligations.PreambleMatchExactly := by
  intro s b hs
  refine ⟨_, exec_rxByte b s, ?_⟩
  by_cases hm : s.rx.prev2 = 0x0FF#9 ∧ s.rx.prev1 = 0x0FF#9 ∧ b = 0xFE#8
  · rw [receive_match hs hm]
    exact iff_of_true rfl hm
  · rw [receive_shift hs hm]
    exact iff_of_false (by simp [hs]) hm

/-- Settles O29: RX_BYTE leaves what a match leaves (`receive_match`). -/
theorem matchEntersCapture : Obligations.MatchEntersCapture := by
  intro s hs h2 h1
  exact (exec_rxByte 0xFE#8 s).trans (congrArg Host.Outcome.next (receive_match hs ⟨h2, h1, rfl⟩))

/-- Settles O30: RX_BYTE leaves what the history shift leaves (`receive_shift`). -/
theorem noMatchShiftsHistory : Obligations.NoMatchShiftsHistory := by
  intro s b hs hm
  rw [exec_rxByte, receive_shift hs hm]
  rfl

theorem receive_of_scan {s : State} (hs : s.rx.state = .scan) (b : Byte) : s.receive b = scanByte b s.dropRecord := by
  simp [State.receive, hs]

/-- A byte in SCAN, a match or not, stores nothing and emits nothing (R162). -/
theorem receive_scan_frame {s : State} (hs : s.rx.state = .scan) (b : Byte) :
    (s.receive b).rx.capbuf = s.rx.capbuf ∧ (s.receive b).records = s.records ∧ (s.receive b).rx.recOut = none := by
  obtain ⟨-, -, hrec, -, -, -, -, hbuf, hout⟩ := scanByte_frame b s.dropRecord
  rw [receive_of_scan hs]
  exact ⟨hbuf, hrec, hout⟩

/-- Where `t` is `s` but for RXU, putting RXU's side of `t` into `s` with other TXU registers replaces these in `t`. -/
theorem State.SameButRx.graft_rxu {s t : State} (h : s.SameButRx t) (tx' : Txu) :
    State.graft .rxu { s with tx := tx' } t = { t with tx := tx' } := by
  simp [State.graft, h.cfg, h.txIn, h.sched, h.free]

/-- Settles O31: the frame of a byte in SCAN (`receive_scan_frame`), and the independence of an RXU operation from TXU's
side (`exec_graft`). -/
theorem scanByteFrame : Obligations.ScanByteFrame := by
  refine ⟨fun s t b hs ht => ?_, fun s t i tx' ha ht => ?_⟩
  · obtain rfl := Host.Outcome.next.inj ((exec_rxByte b s).symm.trans ht)
    exact ⟨receive_sameButRx s b, receive_scan_frame hs b⟩
  · have hgraft := exec_graft (u := { s with tx := tx' }) (s := s) rfl i
    rw [ha, ht, mapNext_next, (tokenFrame s t i ha ht).graft_rxu] at hgraft
    exact hgraft

/-! ### The window -/

/-- The slot of the last byte of a stream: EMPTY where no byte has come (R155). -/
def lastSlot (bytes : List Byte) : BitVec 9 := bytes.getLast?.elim emptySlot slotOf

@[simp] theorem lastSlot_nil : lastSlot [] = emptySlot := rfl

@[simp] theorem lastSlot_concat (bytes : List Byte) (b : Byte) : lastSlot (bytes ++ [b]) = slotOf b := by
  simp [lastSlot]

/-- A slot that holds a byte says that the stream ends in it (R43). -/
theorem exists_concat_of_lastSlot_eq {bytes : List Byte} {b : Byte} (h : lastSlot bytes = slotOf b) :
    ∃ init, bytes = init ++ [b] := by
  obtain rfl | ⟨init, last, rfl⟩ := List.eq_nil_or_concat' bytes
  · exact absurd h.symm (slotOf_ne_empty b)
  · rw [lastSlot_concat, slotOf_inj] at h
    exact ⟨init, by rw [h]⟩

/-- RXU scans, and its history is the last two bytes of this stream (R155, R156). -/
structure Rxu.Window (bytes : List Byte) (r : Rxu) : Prop where
  state : r.state = .scan
  prev1 : r.prev1 = lastSlot bytes
  prev2 : r.prev2 = lastSlot bytes.dropLast

/-- A byte that matches the window of a stream ends a preamble in it (R152). -/
theorem Rxu.Window.preamble_infix {bytes : List Byte} {r : Rxu} {b : Byte} (h : r.Window bytes)
    (hm : r.prev2 = 0x0FF#9 ∧ r.prev1 = 0x0FF#9 ∧ b = 0xFE#8) : preamble <:+: bytes ++ [b] := by
  obtain ⟨h2, h1, rfl⟩ := hm
  obtain ⟨init, rfl⟩ := exists_concat_of_lastSlot_eq (b := pre1) (h.prev1.symm.trans (h1.trans slotOf_pre1.symm))
  have hprev2 := h.prev2
  rw [List.dropLast_concat] at hprev2
  obtain ⟨front, rfl⟩ := exists_concat_of_lastSlot_eq (b := pre0) (hprev2.symm.trans (h2.trans slotOf_pre0.symm))
  exact ⟨front, [], by simp [preamble, pre2]⟩

/-- Bytes without FF FF FE, from an empty history: no byte of them matches, so each only shifts the window (R153), and
RXU emits nothing (R155, R156). -/
theorem receiveAll_window {s : State} (hs : s.rx.Window []) (bytes : List Byte) (hp : ¬ preamble <:+: bytes) :
    (s.receiveAll bytes).rx.Window bytes ∧ (s.receiveAll bytes).records = s.records := by
  induction bytes using List.reverseRecOn with
  | nil => exact ⟨hs, rfl⟩
  | append_singleton bytes b ih =>
    obtain ⟨hw, hrec⟩ := ih fun h => hp (h.trans (List.prefix_append bytes [b]).isInfix)
    have hshift := receive_shift hw.state fun hm => hp (hw.preamble_infix hm)
    rw [receiveAll_append, receiveAll_cons, receiveAll_nil, hshift]
    refine ⟨⟨hw.state, ?_, ?_⟩, hrec⟩
    · exact (lastSlot_concat bytes b).symm
    · rw [List.dropLast_concat]
      exact hw.prev1

theorem lastSlot_eq_match (bytes : List Byte) :
    lastSlot bytes = (match bytes.reverse with | b :: _ => slotOf b | [] => emptySlot) := by
  obtain rfl | ⟨init, last, rfl⟩ := List.eq_nil_or_concat' bytes
  · rfl
  · simp

theorem lastSlot_dropLast_eq_match (bytes : List Byte) :
    lastSlot bytes.dropLast =
      (match bytes.reverse with | _ :: b :: _ => slotOf b | _ :: [] => emptySlot | [] => emptySlot) := by
  obtain rfl | ⟨init, last, rfl⟩ := List.eq_nil_or_concat' bytes
  · rfl
  · obtain rfl | ⟨front, b, rfl⟩ := List.eq_nil_or_concat' init
    · rfl
    · simp

/-- Settles O38: the run receives the bytes, and `receiveAll_window` says what they leave. -/
theorem scannerWindow : Obligations.ScannerWindow := by
  intro s bytes hs h2 h1 hp
  obtain ⟨hw, hrec⟩ := receiveAll_window ⟨hs, h1, h2⟩ bytes hp
  exact ⟨_, run_rxs bytes s, hw.state, hrec, hw.prev1.trans (lastSlot_eq_match bytes),
    hw.prev2.trans (lastSlot_dropLast_eq_match bytes)⟩

/-! ### Noise and frames from reset -/

/-- After reset no byte has come (R65). -/
theorem window_resetOf (c : Config) : (State.resetOf c).rx.Window [] := ⟨rfl, rfl, rfl⟩

/-- Settles O40: the noise leaves RXU scanning with no record (`receiveAll_window`), and a frame then gives its record
whatever the history (`receiveAll_frame`). -/
theorem resynchronization : Obligations.Resynchronization := by
  intro c noise status values hp hv
  obtain ⟨hw, hrec⟩ := receiveAll_window (window_resetOf c) noise hp
  have hcfg := (receiveAll_sameButRx noise (State.resetOf c)).cfg
  obtain ⟨-, hemits⟩ := receiveAll_frame (status := status) hw.state (by rw [hcfg]; exact hv)
  refine ⟨_, run_rxs _ _, ?_⟩
  rw [receiveAll_append, hemits.records, hrec]
  rfl

/-- The bytes of these records' frames back to back (R161). -/
def framesBytes (recs : List Record) : List Byte := recs.flatMap fun r => frameBytes r.status r.values

theorem framesBytes_concat (recs : List Record) (r : Record) :
    framesBytes (recs ++ [r]) = framesBytes recs ++ frameBytes r.status r.values := by
  simp [framesBytes]

/-- RXU has emitted exactly these records, the last of them is on the port, and it scans with an empty history
(R161). -/
structure State.HoldsRecords (recs : List Record) (t : State) : Prop where
  records : t.records = recs
  recOut : t.rx.recOut = recs.getLast?
  state : t.rx.state = .scan
  prev2 : t.rx.prev2 = emptySlot
  prev1 : t.rx.prev1 = emptySlot

/-- A frame appends its record (R161). -/
theorem State.HoldsRecords.receiveAll_frame {recs : List Record} {s : State} {r : Record} (h : s.HoldsRecords recs)
    (hv : r.values.length = s.cfg.rx.nValues.count) :
    (s.receiveAll (frameBytes r.status r.values)).HoldsRecords (recs ++ [r]) := by
  obtain ⟨-, hemits⟩ := Machine.receiveAll_frame (status := r.status) h.state hv
  exact ⟨h.records ▸ hemits.records, hemits.recOut.trans (List.getLast?_concat).symm, hemits.state, hemits.prev2,
    hemits.prev1⟩

/-- Frames back to back from reset give their records, by induction over the frames (R161). -/
theorem receiveAll_framesBytes {c : Config} {recs : List Record}
    (hv : ∀ r ∈ recs, r.values.length = c.rx.nValues.count) :
    ((State.resetOf c).receiveAll (framesBytes recs)).HoldsRecords recs := by
  induction recs using List.reverseRecOn with
  | nil => exact ⟨rfl, rfl, rfl, rfl, rfl⟩
  | append_singleton recs r ih =>
    have hrecs := ih fun r' hr' => hv r' (List.mem_append_left [r] hr')
    have hr := hv r (List.mem_append_right recs (List.mem_singleton_self r))
    have hcfg := (receiveAll_sameButRx (framesBytes recs) (State.resetOf c)).cfg
    rw [framesBytes_concat, receiveAll_append]
    exact hrecs.receiveAll_frame (by rw [hcfg]; exact hr)

/-- Settles O41: the run receives the frames of the first records and leaves the others waiting; what it leaves is
`receiveAll_framesBytes`. -/
theorem multiFrame : Obligations.MultiFrame := by
  intro c recs more hv
  have hrecs := receiveAll_framesBytes fun r hr => hv r (List.mem_append_left more hr)
  have hrun := run_rxs_append (framesBytes recs) (rxs (framesBytes more)) (State.resetOf c)
  rw [rxs, rxs, ← List.map_append, framesBytes, framesBytes, ← List.flatMap_append] at hrun
  exact ⟨_, hrun, hrecs.records, hrecs.recOut, hrecs.prev2, hrecs.prev1⟩

end Sys2Proof.Machine
end

section
/-! The payload (20_memory.md rule R71, 42_payload_extract.md rules R165 to R178): byte order, one byte in CAPTURE, the
record of a full buffer and its port, tokens in STOPPED, and streams that end inside a payload or go on behind one. -/

namespace Sys2Proof

/-! ### Byte order -/

/-- A value is the sum of its bytes with their weights (R71). -/
theorem toNat_eq_sum_bytes (v : U32) :
    v.toNat = (v.extractLsb' 0 8).toNat + 256 * (v.extractLsb' 8 8).toNat + 65536 * (v.extractLsb' 16 8).toNat +
      16777216 * (v.extractLsb' 24 8).toNat := by
  have hv := v.isLt
  simp only [BitVec.extractLsb'_toNat, Nat.shiftRight_eq_div_pow]
  omega

/-- The bytes that u32le assembles, one by one (`le4_u32le`). -/
theorem extractLsb'_u32le (b0 b1 b2 b3 : Byte) :
    (u32le b0 b1 b2 b3).extractLsb' 0 8 = b0 ∧ (u32le b0 b1 b2 b3).extractLsb' 8 8 = b1 ∧
      (u32le b0 b1 b2 b3).extractLsb' 16 8 = b2 ∧ (u32le b0 b1 b2 b3).extractLsb' 24 8 = b3 := by
  simpa [le4] using le4_u32le b0 b1 b2 b3

theorem toNat_u32le (b0 b1 b2 b3 : Byte) :
    (u32le b0 b1 b2 b3).toNat = b0.toNat + 256 * b1.toNat + 65536 * b2.toNat + 16777216 * b3.toNat := by
  obtain ⟨h0, h1, h2, h3⟩ := extractLsb'_u32le b0 b1 b2 b3
  rw [toNat_eq_sum_bytes, h0, h1, h2, h3]

/-- Settles O9: u32le has the bytes it is given (`le4_u32le`) and so their sum, and it undoes LE4 (`u32le_le4`). -/
theorem littleEndianExact : Obligations.LittleEndianExact := by
  refine ⟨fun b0 b1 b2 b3 => ⟨toNat_u32le b0 b1 b2 b3, le4_u32le b0 b1 b2 b3⟩,
    fun v => ⟨rfl, fun b0 b1 b2 b3 h => ?_⟩, by decide, by decide⟩
  obtain ⟨rfl, rfl, rfl, rfl⟩ : v.extractLsb' 0 8 = b0 ∧ v.extractLsb' 8 8 = b1 ∧ v.extractLsb' 16 8 = b2 ∧
    v.extractLsb' 24 8 = b3 := by simpa [le4] using h
  exact u32le_le4 v

end Sys2Proof

namespace Sys2Proof.Machine

/-! ### One byte in CAPTURE -/

/-- The byte is stored at RX_CAPIDX (R166). -/
theorem Rxu.store_getElem?_capidx (r : Rxu) (b : Byte) (h : r.capidx.toNat < 17) :
    (r.store b).capbuf[r.capidx.toNat]? = some b := by
  rw [Rxu.store_capbuf, Vector.getElem?_setIfInBounds_self, if_pos h]

/-- Every other byte of the buffer stays (log 9). -/
theorem Rxu.store_getElem?_of_ne (r : Rxu) (b : Byte) {k : Nat} (h : k ≠ r.capidx.toNat) :
    (r.store b).capbuf[k]? = r.capbuf[k]? :=
  Vector.getElem?_setIfInBounds_ne h.symm

/-- Settles O32: below the last index the byte is stored and RX_CAPIDX goes up (`captureByte_more`), without a carry out of
its five bits. -/
theorem captureStoresByte : Obligations.CaptureStoresByte := by
  intro s b hs hc
  have hcount := count_eq s.cfg.rx.nValues
  have hne : s.rx.capidx ≠ lastCapIdx s.cfg.rx.nValues := fun he => by
    rw [he, toNat_lastCapIdx] at hc
    omega
  have hnext : (s.rx.capidx + 1#5).toNat = s.rx.capidx.toNat + 1 := by bv_omega
  have hexec := exec_rxByte b s
  rw [receive_of_capture hs, captureByte_more b s.dropRecord hne] at hexec
  exact ⟨_, hexec, tokenFrame s _ _ rfl hexec, rfl, rfl, hs, rfl, rfl, hnext, s.rx.store_getElem?_capidx b (by omega),
    fun _ hk => s.rx.store_getElem?_of_ne b hk⟩

/-! ### The record of a full buffer -/

theorem getElem?_capByte (buf : Vector Byte 17) (k : Fin 17) : buf[k.val]? = some (capByte buf k) :=
  Vector.getElem?_eq_getElem k.isLt

/-- Value i of the record, from the bytes it stands in (R171). -/
theorem capRecord_values_of_getElem? {n : NValues} {buf : Vector Byte 17} {i : Nat} {b0 b1 b2 b3 : Byte}
    (hi : i < n.count) (h0 : buf[1 + 4 * i]? = some b0) (h1 : buf[2 + 4 * i]? = some b1)
    (h2 : buf[3 + 4 * i]? = some b2) (h3 : buf[4 + 4 * i]? = some b3) :
    (capRecord n buf).values[i]? = some (u32le b0 b1 b2 b3) := by
  have hcount := count_eq n
  have hbyte {k : Fin 17} {b : Byte} (h : buf[k.val]? = some b) : capByte buf k = b :=
    Option.some.inj ((getElem?_capByte buf k).symm.trans h)
  rw [capRecord_values_getElem? n buf ⟨i, by omega⟩ hi, capValue, hbyte h0, hbyte h1, hbyte h2, hbyte h3]

/-- Settles O33: at the last index the byte is stored and its buffer's record is emitted (`captureByte_last`); the record
is read off the buffer (`getElem?_capByte`, `capRecord_values_of_getElem?`). -/
theorem captureCompletesRecord : Obligations.CaptureCompletesRecord := by
  intro s b hs hc
  have hcount := count_eq s.cfg.rx.nValues
  have hlast : s.rx.capidx = lastCapIdx s.cfg.rx.nValues :=
    BitVec.eq_of_toNat_eq (hc.trans (toNat_lastCapIdx _).symm)
  have hstored := s.rx.store_getElem?_capidx b (by omega)
  rw [hc] at hstored
  have hkept {k : Nat} (hk : k ≠ 4 * s.cfg.rx.nValues.count) : (s.rx.store b).capbuf[k]? = s.rx.capbuf[k]? :=
    s.rx.store_getElem?_of_ne b (hc ▸ hk)
  have hexec := exec_rxByte b s
  rw [receive_of_capture hs, captureByte_last b s.dropRecord hlast] at hexec
  exact ⟨_, _, hexec, tokenFrame s _ _ rfl hexec, rfl, rfl, rfl, rfl, rfl, rfl, hstored, fun _ => hkept,
    getElem?_capByte _ 0, length_capRecord _ _, fun _ _ _ _ _ => capRecord_values_of_getElem?⟩

/-! ### The record port -/

/-- The first value stands in the low 32 bits, the others above it (R172). -/
theorem valuesPort_cons (status : Byte) (v : U32) (vs : List U32) :
    (Record.mk status (v :: vs)).valuesPort = ((Record.mk status vs).valuesPort <<< 32) ||| v.setWidth 128 := rfl

theorem extractLsb'_valuesPort_cons_zero (status : Byte) (v : U32) (vs : List U32) :
    (Record.mk status (v :: vs)).valuesPort.extractLsb' 0 32 = v := by
  apply BitVec.eq_of_getLsbD_eq
  intro k hk
  have h128 : k < 128 := by omega
  simp [valuesPort_cons, hk, h128]

theorem extractLsb'_valuesPort_cons_succ (status : Byte) (v : U32) (vs : List U32) {i : Nat} (hi : i < 3) :
    (Record.mk status (v :: vs)).valuesPort.extractLsb' (32 * (i + 1)) 32 =
      (Record.mk status vs).valuesPort.extractLsb' (32 * i) 32 := by
  apply BitVec.eq_of_getLsbD_eq
  intro k hk
  have hbit : 32 * (i + 1) + k = 32 * i + k + 32 := by omega
  have h128 : 32 * i + k + 32 < 128 := by omega
  have hlow : 32 * i + k < 128 := by omega
  simp [valuesPort_cons, hk, hbit, h128, BitVec.getLsbD_eq_getElem hlow]

/-- Settles O37, by induction on the values: the first is in the low 32 bits, and value i + 1 is value i of the others, 32
bits further up. -/
theorem recordPortBits : Obligations.RecordPortBits := by
  rintro ⟨status, values⟩ i v hl hv
  dsimp only at hl hv
  induction values generalizing i with
  | nil => cases hv
  | cons x xs ih =>
    cases i with
    | zero =>
      obtain rfl : x = v := Option.some.inj hv
      exact extractLsb'_valuesPort_cons_zero status x xs
    | succ i =>
      rw [List.getElem?_cons_succ] at hv
      obtain ⟨hi, -⟩ := List.getElem?_eq_some_iff.1 hv
      rw [List.length_cons] at hl
      rw [extractLsb'_valuesPort_cons_succ status x xs (by omega)]
      exact ih i (by omega) hv

/-! ### STOPPED -/

/-- In STOPPED a token only ends the step with rec_valid = 0 (R56, R177). -/
theorem exec_rx_of_stopped {i : Instr} {s : State} (ha : i.agent = .rxu) (hs : s.rx.state = .stopped) :
    exec i s = .next s.dropRecord := by
  cases i with
  | txByte d => cases ha
  | txU32 v => cases ha
  | txCycle status values => cases ha
  | reservedCmd op => cases ha
  | rxByte b => rw [exec_rxByte, receive_of_stopped hs]
  | rxEos => simp [exec, execRxEos, hs]

/-- Settles O35: a boundary of TXU leaves RXU (`step_txu_frame`), and of RXU's occasions only the reset leaves STOPPED. -/
theorem stoppedIgnoresTokens : Obligations.StoppedIgnoresTokens := by
  refine ⟨fun s hs => ⟨exec_rx_of_stopped rfl hs, fun b => exec_rx_of_stopped rfl hs⟩, fun s t hs h => ?_⟩
  cases ha : s.nextAgent with
  | txu =>
    obtain ⟨hrx, hrec⟩ := step_txu_frame h ha
    exact ⟨hrec, .inl (hrx ▸ hs)⟩
  | rxu =>
    obtain ⟨-, rfl⟩ | ⟨rest, hin, rfl⟩ | ⟨tok, rest, -, he⟩ := step_rxu_cases h ha
    · exact ⟨rfl, .inl hs⟩
    · exact ⟨rfl, .inr ⟨ha, by rw [hin]; rfl⟩⟩
    · rw [exec_rx_of_stopped (decodeTok_agent tok) (by exact hs)] at he
      obtain rfl := Host.Outcome.next.inj he
      exact ⟨rfl, .inl hs⟩

/-! ### A stream that ends inside a payload, and one that goes on behind it -/

/-- The next step takes RX_EOS, which stops an RXU that is not STOPPED (R176). -/
theorem step_withTokens_rxEos {s : State} (hs : s.rx.state ≠ .stopped) :
    step (s.withTokens [.rxEos]) =
      .next { s with rx := { s.rx with state := .stopped, capidx := 0#5, recOut := none } } := by
  obtain ⟨hexec, -⟩ := eosStops s hs
  exact (placedWordRuns s .rxEos rfl (fun h => by cases h)).trans hexec

/-- A preamble and then bytes that end before the last of the payload are captured, and emit nothing (R154, R166). -/
theorem receiveAll_preamble_captured {s : State} (hs : s.rx.state = .scan) {bytes : List Byte}
    (hl : bytes.length ≤ 4 * s.cfg.rx.nValues.count) :
    (s.receiveAll (preamble ++ bytes)).rx.Captured bytes ∧ (s.receiveAll (preamble ++ bytes)).records = s.records := by
  have hn : (s.receiveAll preamble).cfg.rx.nValues = s.cfg.rx.nValues := by
    rw [(receiveAll_sameButRx preamble s).cfg]
  obtain ⟨hcap, hrec⟩ := receiveAll_captured hn (captured_of_preamble hs) bytes
    (by rwa [List.length_nil, Nat.zero_add])
  rw [receiveAll_append]
  exact ⟨hcap, hrec.trans (by rw [receiveAll_preamble hs])⟩

/-- Settles O42: the bytes behind the preamble are captured and emit nothing (`receiveAll_preamble_captured`), and RX_EOS
then stops RXU (`step_withTokens_rxEos`). -/
theorem truncatedFrameDropped : Obligations.TruncatedFrameDropped := by
  intro c status part hl
  obtain ⟨hcap, hrec⟩ := receiveAll_preamble_captured (s := State.resetOf c) (bytes := status :: part) rfl
    (by rw [List.length_cons]; exact hl)
  have hrun := run_rxs_append (preamble ++ status :: part) [.rxEos] (State.resetOf c)
  have hlen : (preamble ++ status :: part).length = 4 + part.length :=
    (Nat.add_comm 4 part.length).symm
  have hidx : (status :: part).length = 1 + part.length := Nat.add_comm _ _
  rw [hlen] at hrun
  exact ⟨_, _, hrun, hcap.state, hcap.capidx.trans hidx, step_withTokens_rxEos (by rw [hcap.state]; decide), hrec, rfl,
    rfl⟩

/-- Settles O43: the frame gives its record and leaves an empty history (`receiveAll_frame`), from which a tail without FF
FF FE only shifts the window (`receiveAll_window`). -/
theorem payloadBytesNotReused : Obligations.PayloadBytesNotReused := by
  intro s status values tail hs hv hp
  obtain ⟨-, hemits⟩ := receiveAll_frame (status := status) hs hv
  obtain ⟨hw, hrec⟩ := receiveAll_window ⟨hemits.state, hemits.prev1, hemits.prev2⟩ tail hp
  rw [← receiveAll_append] at hw hrec
  exact ⟨_, run_rxs _ s, hw.state, hrec.trans hemits.records⟩

end Sys2Proof.Machine
end

section
/-! The one named event, ReservedCommand (60_exceptions.md rules R186 and R187). -/

namespace Sys2Proof.Machine

/-- With READY = 1 a reserved command is accepted, and all it does is to raise its event (R186). -/
theorem exec_reservedCmd_of_idle (op : Byte) {s : State} (hp : s.tx.phase = .idle) :
    exec (.reservedCmd op) s = .next (raise (.reservedCommand op) s) :=
  acceptIfReady_ready _ s hp

/-- Settles O14: the command raises its event (`exec_reservedCmd_of_idle`), which sets TX_ERR and leaves TX_PHASE
(`raise_tx`). -/
theorem reservedCommandSetsErr : Obligations.ReservedCommandSetsErr := by
  intro s op hr
  have hp : s.tx.phase = .idle := (ready_iff s.tx).1 hr
  have hexec := exec_reservedCmd_of_idle op hp
  refine ⟨hexec, fun t ht => ?_⟩
  obtain rfl : raise (.reservedCommand op) s = t := Host.Outcome.next.inj (hexec.symm.trans ht)
  have hphase : (raise (.reservedCommand op) s).tx.phase = .idle := by rw [raise_tx, hp]
  exact ⟨hphase, (ready_iff _).2 hphase⟩

end Sys2Proof.Machine
end

section
/-! Hazards (70_reset_and_hazards.md rules R209, R214 and R216): a receiver of three values fed a frame of four, steps of
one unit seen from the other, and the tolerance of the line rate. -/

namespace Sys2Proof.Machine

/-! ### A receiver of fewer values than the frame -/

/-- No more than 4·N_VALUES bytes from SCAN emit no record, whether a preamble is among them or not: behind it are then too
few bytes for a payload (R165, R166). -/
theorem receiveAll_records_of_short {bytes : List Byte} {s : State} (hs : s.rx.state = .scan)
    (hl : bytes.length ≤ 4 * s.cfg.rx.nValues.count) : (s.receiveAll bytes).records = s.records := by
  induction bytes generalizing s with
  | nil => rfl
  | cons b bytes ih =>
    rw [List.length_cons] at hl
    obtain ⟨-, hrec, -⟩ := receive_scan_frame hs b
    have hcfg := (receive_sameButRx s b).cfg
    rw [receiveAll_cons, ← hrec]
    by_cases hm : s.rx.prev2 = 0x0FF#9 ∧ s.rx.prev1 = 0x0FF#9 ∧ b = 0xFE#8
    · have hcap : (s.receive b).rx.Captured [] := by
        rw [receive_match hs hm]
        exact ⟨rfl, rfl, fun k hk => absurd hk (Nat.not_lt_zero k)⟩
      exact (receiveAll_captured rfl hcap bytes (by rw [hcfg, List.length_nil]; omega)).2
    · have hscan : (s.receive b).rx.state = .scan := by
        rw [receive_shift hs hm]
        exact hs
      exact ih hscan (by rw [hcfg]; omega)

/-- A frame of one more value ends in that value's bytes (R96). -/
theorem frameBytes_concat (status : Byte) (values : List U32) (v : U32) :
    frameBytes status (values ++ [v]) = frameBytes status values ++ le4 v := by
  simp [frameBytes, payloadBytes]

/-- Settles O44: the first 16 bytes are a frame of three values, which gives its record and leaves an empty history
(`receiveAll_frame`); the four bytes behind it are too few for another (`receiveAll_records_of_short`), and without FF FF FE
they only shift the window (`receiveAll_window`). -/
theorem mismatchFourToThree : Obligations.MismatchFourToThree := by
  intro s status v0 v1 v2 v3 hs hn
  obtain ⟨-, hemits⟩ := receiveAll_frame (status := status) (values := [v0, v1, v2]) hs (by rw [hn]; rfl)
  have hcfg := (receiveAll_sameButRx (frameBytes status [v0, v1, v2]) s).cfg
  have hnone := receiveAll_records_of_short (bytes := le4 v3) hemits.state (by rw [hcfg, hn, length_le4]; decide)
  have hrun := run_rxs (frameBytes status ([v0, v1, v2] ++ [v3])) s
  rw [frameBytes_concat, receiveAll_append] at hrun
  refine ⟨_, hrun, hnone.trans hemits.records, fun hp => ?_⟩
  exact (receiveAll_window ⟨hemits.state, hemits.prev1, hemits.prev2⟩ (le4 v3) hp).1.state

/-! ### A step of one unit, seen from the other -/

/-- Settles O56: a step puts the moving unit's side into the old state and changes nothing else (`step_frame`). -/
theorem unitsDoNotTouchEachOther : Obligations.UnitsDoNotTouchEachOther := by
  intro s t h
  have hf := step_frame h
  refine ⟨fun ha => ?_, fun ha => ?_⟩ <;>
  · rw [ha] at hf
    rw [hf]
    exact ⟨rfl, rfl, rfl⟩

/-! ### The tolerance of the line rate -/

/-- Settles O60: 99 and 109 are the first and the last H with 9600·H from 950000 to 1050000. -/
theorem timingTolerance : Obligations.TimingTolerance := by
  intro c
  have hbaud : baud = 9600 := rfl
  rw [TxConfig.TimingOk, hbaud]
  constructor
  · rintro ⟨hlow, hhigh⟩
    omega
  · rintro ⟨hlow, hhigh⟩
    omega

end Sys2Proof.Machine
end
